-- ==== Sys2Proof/Word.lean ====
section
/-!
DEFINITION. The words of the CORE: what the spec treats as bits (00_scope.md R4, R6), and the index of a general
register (10_state.md R20).
-/

namespace Sys2Proof

/-- A byte: a general register, a timer, a memory cell, an immediate `kk`. -/
abbrev Byte := BitVec 8

/-- A 16-bit word: an instruction word, `pc`, `I`, a stack entry. -/
abbrev Word := BitVec 16

/-- The 12-bit address operand `nnn` (30_encoding.md R61). -/
abbrev Addr12 := BitVec 12

/-- A 4-bit field of the instruction word (30_encoding.md R61). -/
abbrev Nibble := BitVec 4

/-- The index of a general register, 0 to 15; also a key number, 0 to 15 (10_state.md R20, R30). -/
abbrev Reg := Fin 16

/-- The index of the flag register VF (00_scope.md R4 FLAG_REG, 10_state.md R21). -/
abbrev VF : Reg := 15

end Sys2Proof
end

