-- ==== Sys2Proof/Decode.lean ====
section
/-!
DEFINITION. Decoding by the two-level dispatch of 30_encoding.md R63, total on words (R75); decoding of bytes, big-endian
(20_memory.md R45), which rejects by name a list too short for a word; and the encoder, from the formats of R62.
-/

namespace Sys2Proof

/-! ## Fields (30_encoding.md R61) -/

/-- `op = w[15:12]`, the family. -/
def fieldOp (w : Word) : Nibble := w.extractLsb' 12 4

/-- `x = w[11:8]`. -/
def fieldX (w : Word) : Reg := (w.extractLsb' 8 4).toFin

/-- `y = w[7:4]`. -/
def fieldY (w : Word) : Reg := (w.extractLsb' 4 4).toFin

/-- `n = w[3:0]`. -/
def fieldN (w : Word) : Nibble := w.extractLsb' 0 4

/-- `kk = w[7:0]`. -/
def fieldKK (w : Word) : Byte := w.extractLsb' 0 8

/-- `nnn = w[11:0]`. -/
def fieldNNN (w : Word) : Addr12 := w.extractLsb' 0 12

/-! ## Decoding a word -/

/-- Family 0 matches the two whole words only (30_encoding.md R65). -/
def decodeFamily0 (w : Word) : Instr :=
  if w = 0x00E0#16 then .cls
  else if w = 0x00EE#16 then .ret
  else .nop w

/-- Family 8 sub-dispatches on `n` (30_encoding.md R67). -/
def decodeFamily8 (w : Word) : Instr :=
  match (fieldN w).toNat with
  | 0x0 => .ldReg (fieldX w) (fieldY w)
  | 0x1 => .orReg (fieldX w) (fieldY w)
  | 0x2 => .andReg (fieldX w) (fieldY w)
  | 0x3 => .xorReg (fieldX w) (fieldY w)
  | 0x4 => .addReg (fieldX w) (fieldY w)
  | 0x5 => .subReg (fieldX w) (fieldY w)
  | 0x6 => .shr (fieldX w) (fieldY w)
  | 0x7 => .subn (fieldX w) (fieldY w)
  | 0xE => .shl (fieldX w) (fieldY w)
  | _ => .nop w

/-- Family E sub-dispatches on `kk` (30_encoding.md R68). -/
def decodeFamilyE (w : Word) : Instr :=
  if fieldKK w = 0x9E#8 then .skp (fieldX w)
  else if fieldKK w = 0xA1#8 then .sknp (fieldX w)
  else .nop w

/-- Family F sub-dispatches on `kk` (30_encoding.md R69). -/
def decodeFamilyF (w : Word) : Instr :=
  if fieldKK w = 0x07#8 then .ldVxDT (fieldX w)
  else if fieldKK w = 0x0A#8 then .ldVxK (fieldX w)
  else if fieldKK w = 0x15#8 then .ldDTVx (fieldX w)
  else if fieldKK w = 0x18#8 then .ldSTVx (fieldX w)
  else if fieldKK w = 0x1E#8 then .addI (fieldX w)
  else if fieldKK w = 0x29#8 then .ldF (fieldX w)
  else if fieldKK w = 0x33#8 then .ldB (fieldX w)
  else if fieldKK w = 0x55#8 then .stRegs (fieldX w)
  else if fieldKK w = 0x65#8 then .ldRegs (fieldX w)
  else .nop w

/-- The instruction a word selects: the top nibble selects the family (30_encoding.md R63, R64). Families 5 and 9 ignore
`n` (R66). Every word has an instruction (R70, R75). -/
def decode (w : Word) : Instr :=
  match (fieldOp w).toNat with
  | 0x0 => decodeFamily0 w
  | 0x1 => .jp (fieldNNN w)
  | 0x2 => .call (fieldNNN w)
  | 0x3 => .seImm (fieldX w) (fieldKK w)
  | 0x4 => .sneImm (fieldX w) (fieldKK w)
  | 0x5 => .seReg (fieldX w) (fieldY w) (fieldN w)
  | 0x6 => .ldImm (fieldX w) (fieldKK w)
  | 0x7 => .addImm (fieldX w) (fieldKK w)
  | 0x8 => decodeFamily8 w
  | 0x9 => .sneReg (fieldX w) (fieldY w) (fieldN w)
  | 0xA => .ldI (fieldNNN w)
  | 0xB => .jpV0 (fieldNNN w)
  | 0xC => .rnd (fieldX w) (fieldKK w)
  | 0xD => .drw (fieldX w) (fieldY w) (fieldN w)
  | 0xE => decodeFamilyE w
  | _ => decodeFamilyF w

/-! ## Decoding bytes -/

/-- Why a list of bytes holds no instruction. No word is rejected (30_encoding.md R71): the one reason is that fewer than
two bytes are given. -/
inductive DecodeError where
  /-- Fewer than the two bytes of an instruction word (30_encoding.md R60). Safe: no instruction is invented. -/
  | truncated
  deriving DecidableEq, Repr

/-- The word whose high byte is `hi` and low byte `lo`. -/
def wordOfBytes (hi lo : Byte) : Word := hi ++ lo

/-- The bytes of a word in memory order, big-endian (20_memory.md R45; from general knowledge by the spec's own marking,
log entry 15). -/
def bytesOfWord (w : Word) : List Byte := [w.extractLsb' 8 8, w.extractLsb' 0 8]

/-- The instruction at the head of a list of bytes and the bytes after it: the byte at the lower address is `w[15:8]`
(20_memory.md R45, 30_encoding.md R60). -/
def decodeBytes : List Byte → Except DecodeError (Instr × List Byte)
  | hi :: lo :: rest => .ok (decode (wordOfBytes hi lo), rest)
  | _ => .error .truncated

/-! ## Encoding (30_encoding.md R62) -/

/-- Format A: `op[15:12] nnn[11:0]`. -/
def formatA (op : Nibble) (nnn : Addr12) : Word := op ++ nnn

/-- Formats XK and XS: `op[15:12] x[11:8] kk[7:0]`. -/
def formatXK (op : Nibble) (x : Reg) (kk : Byte) : Word := op ++ (BitVec.ofFin x : Nibble) ++ kk

/-- Formats XY and XYN: `op[15:12] x[11:8] y[7:4] n[3:0]`. -/
def formatXY (op : Nibble) (x y : Reg) (n : Nibble) : Word :=
  op ++ (BitVec.ofFin x : Nibble) ++ (BitVec.ofFin y : Nibble) ++ n

/-- The word of an instruction (30_encoding.md R64). -/
def encode : Instr → Word
  | .cls => 0x00E0
  | .ret => 0x00EE
  | .jp nnn => formatA 0x1 nnn
  | .call nnn => formatA 0x2 nnn
  | .seImm x kk => formatXK 0x3 x kk
  | .sneImm x kk => formatXK 0x4 x kk
  | .seReg x y n => formatXY 0x5 x y n
  | .ldImm x kk => formatXK 0x6 x kk
  | .addImm x kk => formatXK 0x7 x kk
  | .ldReg x y => formatXY 0x8 x y 0x0
  | .orReg x y => formatXY 0x8 x y 0x1
  | .andReg x y => formatXY 0x8 x y 0x2
  | .xorReg x y => formatXY 0x8 x y 0x3
  | .addReg x y => formatXY 0x8 x y 0x4
  | .subReg x y => formatXY 0x8 x y 0x5
  | .shr x y => formatXY 0x8 x y 0x6
  | .subn x y => formatXY 0x8 x y 0x7
  | .shl x y => formatXY 0x8 x y 0xE
  | .sneReg x y n => formatXY 0x9 x y n
  | .ldI nnn => formatA 0xA nnn
  | .jpV0 nnn => formatA 0xB nnn
  | .rnd x kk => formatXK 0xC x kk
  | .drw x y n => formatXY 0xD x y n
  | .skp x => formatXK 0xE x 0x9E
  | .sknp x => formatXK 0xE x 0xA1
  | .ldVxDT x => formatXK 0xF x 0x07
  | .ldVxK x => formatXK 0xF x 0x0A
  | .ldDTVx x => formatXK 0xF x 0x15
  | .ldSTVx x => formatXK 0xF x 0x18
  | .addI x => formatXK 0xF x 0x1E
  | .ldF x => formatXK 0xF x 0x29
  | .ldB x => formatXK 0xF x 0x33
  | .stRegs x => formatXK 0xF x 0x55
  | .ldRegs x => formatXK 0xF x 0x65
  | .nop w => w

/-! ## The opcode map's rows -/

/-- The place of an instruction's row in the opcode map of 30_encoding.md R64, counted from 0; NOP is the last. -/
def Instr.row : Instr → Nat
  | .cls => 0 | .ret => 1 | .jp _ => 2 | .call _ => 3 | .seImm _ _ => 4 | .sneImm _ _ => 5 | .seReg _ _ _ => 6
  | .ldImm _ _ => 7 | .addImm _ _ => 8 | .ldReg _ _ => 9 | .orReg _ _ => 10 | .andReg _ _ => 11 | .xorReg _ _ => 12
  | .addReg _ _ => 13 | .subReg _ _ => 14 | .shr _ _ => 15 | .subn _ _ => 16 | .shl _ _ => 17 | .sneReg _ _ _ => 18
  | .ldI _ => 19 | .jpV0 _ => 20 | .rnd _ _ => 21 | .drw _ _ _ => 22 | .skp _ => 23 | .sknp _ => 24 | .ldVxDT _ => 25
  | .ldVxK _ => 26 | .ldDTVx _ => 27 | .ldSTVx _ => 28 | .addI _ => 29 | .ldF _ => 30 | .ldB _ => 31 | .stRegs _ => 32
  | .ldRegs _ => 33 | .nop _ => 34

/-! ## The host's table word -/

/-- The instruction decoded from a word of `nbits` bits numbered as spec/opcode_table.json numbers them. An instruction is
one 16-bit word (30_encoding.md R60), so a longer one is none. -/
def decodeTableWord (nbits w : Nat) : Option Instr :=
  if nbits ≤ 16 then
    match decodeBytes (bytesOfWord (BitVec.ofNat 16 (w % 2 ^ nbits))) with
    | .ok (i, _) => some i
    | .error _ => none
  else none

end Sys2Proof
end

