-- ==== Sys2Proof/Config.lean ====
section
/-!
DEFINITION. What is fixed for the machine (00_scope.md R4) and what the spec leaves free: the random byte of
45_timers_random.md R153. GLYPH_ROM is a parameter: every state carries its own (State.glyphRom), and only its
default stands here.
-/

namespace Sys2Proof

/-- LOAD_ADDR: the first byte of the loaded program and the entry point (00_scope.md R4, 70_reset_and_hazards.md R191). -/
abbrev Config.loadAddr : Nat := 0x200

/-- LOAD_MAX: the largest accepted program length (00_scope.md R4, 70_reset_and_hazards.md R192, 90_conflicts.md C2). -/
abbrev Config.loadMax : Nat := 3583

/-- The highest memory address (00_scope.md R4 MEM_SIZE, 20_memory.md R40). -/
abbrev Config.memTop : Nat := 0xFFF

/-- A glyph set: 16 glyphs of 5 bytes, glyph `d` at bytes `5*d` to `5*d+4` (00_scope.md R4, 10_state.md R35). -/
abbrev GlyphRom := Vector (Vector Byte 5) 16

/-- The default GLYPH_ROM of 10_state.md R35: the commonly published font, from general knowledge by the spec's own
marking (92_eei_decisions.md D17, 93_implementation_defined.md G6). PRESUMED, unsafe for a claim about what a glyph looks
like; no other claim rests on it, since every state carries its own GLYPH_ROM (log entry 4). -/
def Config.defaultGlyphRom : GlyphRom :=
  #v[ #v[0xF0, 0x90, 0x90, 0x90, 0xF0], #v[0x20, 0x60, 0x20, 0x20, 0x70],
      #v[0xF0, 0x10, 0xF0, 0x80, 0xF0], #v[0xF0, 0x10, 0xF0, 0x10, 0xF0],
      #v[0x90, 0x90, 0xF0, 0x10, 0x10], #v[0xF0, 0x80, 0xF0, 0x10, 0xF0],
      #v[0xF0, 0x80, 0xF0, 0x90, 0xF0], #v[0xF0, 0x10, 0x20, 0x40, 0x40],
      #v[0xF0, 0x90, 0xF0, 0x90, 0xF0], #v[0xF0, 0x90, 0xF0, 0x10, 0xF0],
      #v[0xF0, 0x90, 0xF0, 0x90, 0x90], #v[0xE0, 0x90, 0xE0, 0x90, 0xE0],
      #v[0xF0, 0x80, 0x80, 0x80, 0xF0], #v[0xE0, 0x90, 0x90, 0x90, 0xE0],
      #v[0xF0, 0x80, 0xF0, 0x80, 0xF0], #v[0xF0, 0x80, 0xF0, 0x80, 0x80] ]

/-- `draw8()`: the random byte of the `n`-th executed `Cxkk`. A FREE VALUE with no body: nothing can be proved of it but
what holds for every value (45_timers_random.md R153, 92_eei_decisions.md D19, 93_implementation_defined.md U7). Safe
(log entry 1). -/
opaque Config.drawByte : Nat → Byte

end Sys2Proof
end

