-- ==== Sys2Proof/Machine/State.lean ====
section
/-!
DEFINITION. The state of the CORE (10_state.md), the reasons a step stops, and the state after reset (10_state.md R37,
70_reset_and_hazards.md R190).
-/

namespace Sys2Proof.Machine

/-- The fault causes of 60_exceptions.md R160. A fault of the spec is a VALUE of RUN, reached by a next state (R166); it is
not the outcome `Host.Outcome.fault`. -/
inductive Cause where
  | stackOverflow
  | stackUnderflow
  | memRange
  | keyIndex
  | loadTooLarge
  deriving DecidableEq, Repr

/-- RUN, the run state (10_state.md R33). -/
inductive Run where
  /-- A Step is enabled. -/
  | running
  /-- The engine has executed `Fx0A` and waits for a key; `x` is the latched destination (44_keyboard.md R142). -/
  | awaitingKey (x : Reg)
  /-- A fault was raised; `info` is the value recorded with it (60_exceptions.md R160, R166). -/
  | faulted (cause : Cause) (info : Nat)
  deriving DecidableEq, Repr

/-- Where the boot sequence of 70_reset_and_hazards.md R193 stands: the model's own record of the order Reset, Load, Steps
(log entry 3). -/
inductive Boot where
  /-- Directly after Reset: a Load is given a meaning. -/
  | afterReset
  /-- After Reset another event came before any Load. -/
  | unloaded
  /-- One Load has been performed: Steps are given a meaning. -/
  | loaded
  deriving DecidableEq, Repr

/-- The atomic transitions of 00_scope.md R5, as the host orders them (60_exceptions.md R171). The argument types hold a key
number to 0 to 15, as the host must (70_reset_and_hazards.md R207). -/
inductive Transition where
  | reset
  | load (bytes : List Byte)
  | step
  | tick
  | keySet (k : Reg) (down : Bool)
  /-- `none` is a key-down event that the host's mapping function maps to no key (44_keyboard.md R143, R144). -/
  | keyPress (m : Option Reg)
  deriving DecidableEq, Repr

/-- The framebuffer: `fb[y][x]`, row `y` of 32 and column `x` of 64 (10_state.md R31). -/
abbrev Framebuffer := Vector (Vector Bool 64) 32

/-- The state of one machine instance (10_state.md R20 to R34, R36). -/
structure State where
  /-- V[0] to V[15] (R20); V[15] is VF (R21). -/
  v : Vector Byte 16
  /-- The program counter (R23). -/
  pc : Word
  /-- The index register I (R25). -/
  i : Word
  /-- The stack pointer: the next free slot (R26). -/
  sp : Byte
  /-- STACK[0] to STACK[15] (R27). -/
  stack : Vector Word 16
  /-- The delay timer (R28). -/
  dt : Byte
  /-- The sound timer (R29). -/
  st : Byte
  /-- K[0] to K[15], true when down (R30). -/
  keys : Vector Bool 16
  /-- The framebuffer (R31). -/
  fb : Framebuffer
  /-- MEM (R32): the bytes that differ from their reset contents, in the canonical form of `Memory.wf`. -/
  mem : List Host.Cell
  /-- RUN (R33). -/
  run : Run
  /-- The model's own: where the boot sequence stands (log entry 3). -/
  boot : Boot
  /-- The model's own: the parameter GLYPH_ROM (R35); no transition changes it (log entry 4). -/
  glyphRom : GlyphRom
  /-- The model's own: how many random bytes have been drawn (log entry 1). -/
  draws : Nat
  /-- The model's own: the transitions the host orders next, oldest first; when it is empty the host orders Steps (log
  entry 2). -/
  schedule : List Transition
  deriving DecidableEq, Repr

/-- Why the machine stops: no transition of the spec is enabled. (A fault of the spec is a next state whose RUN is
`Run.faulted`.) -/
inductive Fault where
  /-- Raised by a Step ordered while RUN is Faulted: no Step is enabled, only Reset leaves the state (10_state.md R33,
  60_exceptions.md R166). Safe: the spec has no such transition (log entry 6). -/
  | halted (cause : Cause) (info : Nat)
  /-- Raised by a Step ordered while RUN is AwaitingKey(x): no Step is enabled, a mapped KeyPress or Reset leaves the state
  (10_state.md R33, 44_keyboard.md R146). Safe: the spec has no such transition (log entry 7). -/
  | awaitingKey (x : Reg)
  /-- Raised by a push or a pop when SP is above 16, a value no rule produces (10_state.md R26): the stack has no such entry.
  Safe: no run reaches it (log entry 8). -/
  | illegalStackPointer
  deriving DecidableEq, Repr

/-- What the model gives no meaning. -/
inductive Refusal where
  /-- Raised by `exec` for an instruction not modelled yet; no arm of it is left. Safe. -/
  | notModelled (mnemonic : String)
  /-- Raised by a Step ordered before a Load: 70_reset_and_hazards.md R193 tells a model to refuse it. Safe (log entry 3). -/
  | stepBeforeLoad
  /-- Raised by a Load ordered elsewhere than directly after Reset (a second Load among them): R193 tells a model to refuse
  it. Safe (log entry 3). -/
  | loadNotAfterReset
  deriving DecidableEq, Repr

/-- The outcome of a step. -/
abbrev Result := Host.Outcome State Fault Refusal

/-- The state after Reset with a given GLYPH_ROM (70_reset_and_hazards.md R190, 10_state.md R37). Memory lists nothing: an
unlisted byte reads as its reset contents. -/
def State.resetWith (rom : GlyphRom) : State where
  v := Vector.replicate 16 0
  pc := 0
  i := 0
  sp := 0
  stack := Vector.replicate 16 0
  dt := 0
  st := 0
  keys := Vector.replicate 16 false
  fb := Vector.replicate 32 (Vector.replicate 64 false)
  mem := []
  run := .running
  boot := .afterReset
  glyphRom := rom
  draws := 0
  schedule := []

/-- The machine right after reset, with the default GLYPH_ROM. -/
def State.reset : State := State.resetWith Config.defaultGlyphRom

end Sys2Proof.Machine
end

