-- ==== Sys2Proof/Machine/Ops.lean ====
section
/-!
DEFINITION. The named operations: raising a fault, registers, memory, the stack, the keys and the screen. Instructions are
written over these; each rule of the spec on how a piece of state is read or written stands here once.
-/

namespace Sys2Proof.Machine

/-! ## Faults -/

/-- The code of a fault cause (60_exceptions.md R160; the numbers are the spec's own, 92_eei_decisions.md D9). -/
def Cause.code : Cause → Nat
  | .stackOverflow => 1
  | .stackUnderflow => 2
  | .memRange => 3
  | .keyIndex => 4
  | .loadTooLarge => 5

/-- Fault entry, `raise Fault(cause, info)`: RUN becomes Faulted(cause, info) and nothing else changes (60_exceptions.md
R166, R167). There is no return from it: only Reset leaves Faulted (R168). -/
def State.raise (s : State) (cause : Cause) (info : Nat) : State :=
  { s with run := .faulted cause info }

/-- Why an operation does not deliver: it raises a fault of the spec, or the machine has no such transition. -/
inductive Stop where
  | raise (cause : Cause) (info : Nat)
  | halt (f : Fault)
  deriving DecidableEq, Repr

/-- How an instruction ends: the state its operations deliver, or the entry of the fault one of them raised, from the state
the instruction began in, so that a fault has no partial effect (60_exceptions.md R166, R167). -/
def State.settle (s : State) : Except Stop State → Result
  | .ok t => .next t
  | .error (.raise cause info) => .next (s.raise cause info)
  | .error (.halt f) => .fault f

/-! ## Registers -/

/-- Read V[x] (10_state.md R20). -/
def State.reg (s : State) (x : Reg) : Byte := s.v.get x

/-- Write V[x] (10_state.md R20). -/
def State.setReg (s : State) (x : Reg) (b : Byte) : State :=
  { s with v := s.v.set x.val b x.isLt }

/-- Write the registers V[k], V[k+1], ... with a list of bytes; a byte past V[15] is dropped (it never occurs: the list holds
at most 16 - k bytes). -/
def setRegsFrom (v : Vector Byte 16) (k : Nat) : List Byte → Vector Byte 16
  | [] => v
  | b :: bs => setRegsFrom (v.setIfInBounds k b) (k + 1) bs

/-- Write V[0], V[1], ... with a list of bytes (42_index_memory.md R125). -/
def State.loadRegs (s : State) (bs : List Byte) : State :=
  { s with v := setRegsFrom s.v 0 bs }

/-- Write `pc` (00_scope.md R7). -/
def State.setPc (s : State) (target : Word) : State := { s with pc := target }

/-- Advance `pc` by one instruction width, modulo 65536: the skip of 40_control_flow.md and the advance of the Step (R80,
10_state.md R23). -/
def State.advance (s : State) : State := s.setPc (s.pc + 2)

/-- Skip the next instruction when the condition holds (40_control_flow.md R86 to R89, 44_keyboard.md R140, R141). -/
def State.skipIf (s : State) (c : Bool) : State := if c then s.advance else s

/-- Write I (10_state.md R25). -/
def State.setI (s : State) (a : Word) : State := { s with i := a }

/-- Write DT (10_state.md R28). -/
def State.setDT (s : State) (b : Byte) : State := { s with dt := b }

/-- Write ST (10_state.md R29). -/
def State.setST (s : State) (b : Byte) : State := { s with st := b }

/-- Write RUN (10_state.md R33). -/
def State.setRun (s : State) (r : Run) : State := { s with run := r }

/-- Move the boot record (70_reset_and_hazards.md R193; log entry 3). -/
def State.setBoot (s : State) (b : Boot) : State := { s with boot := b }

/-- Set what the host orders next (log entry 2). -/
def State.setSchedule (s : State) (ts : List Transition) : State := { s with schedule := ts }

/-- Set the count of random bytes drawn (log entry 1). -/
def State.setDraws (s : State) (n : Nat) : State := { s with draws := n }

/-- `draw8()`: a fresh free byte, and the counter moved on so that the next draw is another one (45_timers_random.md R153;
log entry 1). -/
def State.draw8 (s : State) : Byte × State :=
  (Config.drawByte s.draws, s.setDraws (s.draws + 1))

/-! ## Memory -/

/-- What an unlisted address reads as: its reset contents, GLYPH_ROM at 0x000 to 0x04F and 0 elsewhere (10_state.md R37,
70_reset_and_hazards.md R190). -/
def Memory.unlisted (rom : GlyphRom) (a : Nat) : Byte :=
  if h : a < 80 then
    have : a / 5 < 16 := by omega
    have : a % 5 < 5 := by omega
    rom[a / 5][a % 5]
  else 0

/-- The canonical form of memory: addresses strictly rising and inside the 4096 bytes, no cell equal to what its address
reads as unlisted. -/
abbrev Memory.wf (rom : GlyphRom) (m : List Host.Cell) : Prop :=
  m.Pairwise (fun c d => c.1 < d.1) ∧ ∀ c ∈ m, c.1 ≤ Config.memTop ∧ c.2 ≠ Memory.unlisted rom c.1

/-- `MEM[a]`. -/
def Memory.read (rom : GlyphRom) (a : Nat) : List Host.Cell → Byte
  | [] => Memory.unlisted rom a
  | c :: rest => if c.1 = a then c.2 else Memory.read rom a rest

/-- List the cell `(a, b)` in its place. -/
def Memory.insert (a : Nat) (b : Byte) : List Host.Cell → List Host.Cell
  | [] => [(a, b)]
  | c :: rest =>
    if a < c.1 then (a, b) :: c :: rest
    else if a = c.1 then (a, b) :: rest
    else c :: Memory.insert a b rest

/-- `MEM[a] <- b`: writing what the address reads as unlisted removes its cell. -/
def Memory.write (rom : GlyphRom) (a : Nat) (b : Byte) (m : List Host.Cell) : List Host.Cell :=
  if b = Memory.unlisted rom a then m.filter (fun c => c.1 != a) else Memory.insert a b m

/-- Read the byte at an address, with no range check. -/
def State.byteAt (s : State) (a : Nat) : Byte := Memory.read s.glyphRom a s.mem

/-- Write the byte at an address, with no range check. -/
def State.setByte (s : State) (a : Nat) (b : Byte) : State :=
  { s with mem := Memory.write s.glyphRom a b s.mem }

/-- Write bytes at ascending addresses from `a`, with no range check. -/
def State.setBytes (s : State) (a : Nat) : List Byte → State
  | [] => s
  | b :: bs => (s.setByte a b).setBytes (a + 1) bs

/-- Read `n` bytes at ascending addresses from `a`, with no range check. -/
def State.bytesAt (s : State) (a : Nat) : Nat → List Byte
  | 0 => []
  | n + 1 => s.byteAt a :: s.bytesAt (a + 1) n

/-- The range check of an access to the `n` bytes from `a`: addresses are unbounded naturals and do not wrap (20_memory.md
R42, R43, R44); no byte accessed, no fault (43_display.md R131). The recorded address is the lowest above 0xFFF
(60_exceptions.md R160, R169). -/
def checkRange (a n : Nat) : Except Stop Unit :=
  if n ≠ 0 ∧ a + n - 1 > Config.memTop then .error (.raise .memRange (max a (Config.memTop + 1)))
  else .ok ()

/-- Read `n` bytes from `a`, all of them range-checked first (20_memory.md R42, R44). -/
def State.memRead (s : State) (a n : Nat) : Except Stop (List Byte) :=
  match checkRange a n with
  | .ok _ => .ok (s.bytesAt a n)
  | .error e => .error e

/-- Write bytes from `a`, all addresses range-checked before the first write (20_memory.md R43, R44; 60_exceptions.md
R167). -/
def State.memWrite (s : State) (a : Nat) (bs : List Byte) : Except Stop State :=
  match checkRange a bs.length with
  | .ok _ => .ok (s.setBytes a bs)
  | .error e => .error e

/-! ## The stack -/

/-- Write SP (10_state.md R26). -/
def State.setSp (s : State) (b : Byte) : State := { s with sp := b }

/-- Write a stack entry (10_state.md R27). -/
def State.setEntry (s : State) (k : Fin 16) (a : Word) : State := { s with stack := s.stack.set k.val a k.isLt }

/-- `Push(v)` (10_state.md R27): write at the pointer, then increment it; overflow when SP is 16. -/
def State.push (s : State) (a : Word) : Except Stop State :=
  if s.sp = 16 then .error (.raise .stackOverflow a.toNat)
  else if h : s.sp.toNat < 16 then .ok ((s.setEntry ⟨s.sp.toNat, h⟩ a).setSp (s.sp + 1))
  else .error (.halt .illegalStackPointer)

/-- `Pop()` (10_state.md R27): decrement the pointer, then read; underflow when SP is 0. The entry is not cleared. -/
def State.pop (s : State) : Except Stop (Word × State) :=
  if s.sp = 0 then .error (.raise .stackUnderflow 0)
  else if h : (s.sp - 1).toNat < 16 then .ok (s.stack.get ⟨(s.sp - 1).toNat, h⟩, s.setSp (s.sp - 1))
  else .error (.halt .illegalStackPointer)

/-! ## The keys -/

/-- The state of the key numbered `k`; a number above 15 is a KEY_INDEX fault (44_keyboard.md R140, R141;
92_eei_decisions.md D16). -/
def State.keyDown (s : State) (k : Byte) : Except Stop Bool :=
  if h : k.toNat < 16 then .ok s.keys[k.toNat] else .error (.raise .keyIndex k.toNat)

/-- Write one key bit (44_keyboard.md R145). -/
def State.setKey (s : State) (k : Reg) (down : Bool) : State :=
  { s with keys := s.keys.set k.val down k.isLt }

/-! ## The screen -/

/-- The pixel at column `x` and row `y`, both taken modulo the screen's size (43_display.md R132). -/
def pixelAt (fb : Framebuffer) (x y : Nat) : Bool :=
  have : y % 32 < 32 := Nat.mod_lt _ (by decide)
  have : x % 64 < 64 := Nat.mod_lt _ (by decide)
  fb[y % 32][x % 64]

/-- Invert the pixel at column `x` and row `y`, both taken modulo the screen's size. -/
def togglePixel (fb : Framebuffer) (x y : Nat) : Framebuffer :=
  have hy : y % 32 < 32 := Nat.mod_lt _ (by decide)
  have hx : x % 64 < 64 := Nat.mod_lt _ (by decide)
  fb.set (y % 32) (fb[y % 32].set (x % 64) (!pixelAt fb x y) hx) hy

/-- All pixels unset (43_display.md R130). -/
def blankScreen : Framebuffer := Vector.replicate 32 (Vector.replicate 64 false)

/-- The bit of a sprite byte that belongs to a column: bit 7 is column 0, the leftmost (43_display.md R134; from general
knowledge by the spec's own marking, log entry 16). -/
def spriteBit (b : Byte) (col : Nat) : Bool := b.getLsbD (7 - col)

/-- XOR one sprite bit into a pixel; the running collision becomes true when a set pixel is unset (43_display.md R132,
R133). -/
def plot (x y : Nat) (bit : Bool) (p : Framebuffer × Bool) : Framebuffer × Bool :=
  if bit then (togglePixel p.1 x y, p.2 || pixelAt p.1 x y) else p

/-- Draw the eight bits of one sprite row (43_display.md R132). -/
def drawRow (x y : Nat) (b : Byte) (p : Framebuffer × Bool) : Framebuffer × Bool :=
  [0, 1, 2, 3, 4, 5, 6, 7].foldl (fun q col => plot (x + col) y (spriteBit b col) q) p

/-- Draw the rows of a sprite from row `y` down (43_display.md R132). -/
def drawRows (x y : Nat) : List Byte → Framebuffer × Bool → Framebuffer × Bool
  | [], p => p
  | b :: bs, p => drawRows x (y + 1) bs (drawRow x y b p)

/-- `DrawSprite` (43_display.md R132): the framebuffer after drawing and the collision result. -/
def drawSprite (fb : Framebuffer) (vx vy : Nat) (sprite : List Byte) : Framebuffer × Bool :=
  drawRows vx vy sprite (fb, false)

/-- Write the framebuffer (10_state.md R31). -/
def State.setFb (s : State) (fb : Framebuffer) : State := { s with fb := fb }

/-- Read one pixel: the host's pixel accessor (10_state.md R31, R38). -/
def State.pixel (s : State) (x y : Nat) : Bool := pixelAt s.fb x y

end Sys2Proof.Machine
end

