-- ==== Sys2Proof/Machine/Flags.lean ====
section
/-!
DEFINITION. The flag VF (10_state.md R21, R22) and every outcome it reports (41_alu.md R106 to R110).
-/

namespace Sys2Proof.Machine

/-- A flag as the value 1 or 0 of VF (10_state.md R21). -/
def flagByte (c : Bool) : Byte := if c then 1 else 0

/-- Write VF as a flag. -/
def State.setFlag (s : State) (c : Bool) : State := s.setReg VF (flagByte c)

/-- Write the result, then the flag: with `x = 0xF` the flag is what VF holds afterwards (10_state.md R22, 00_scope.md R8,
90_conflicts.md C3). -/
def State.setResult (s : State) (x : Reg) (result : Byte) (flag : Bool) : State :=
  (s.setReg x result).setFlag flag

/-- The carry of `8xy4`: the untruncated sum is above 255 (41_alu.md R106). -/
def carryOut (a b : Byte) : Bool := decide (a.toNat + b.toNat > 255)

/-- The flag of `8xy5` and `8xy7`: the minuend is strictly greater, so equal operands give 0 (41_alu.md R107, R109). -/
def noBorrow (a b : Byte) : Bool := decide (a.toNat > b.toNat)

/-- The bit shifted out by `8xy6` (41_alu.md R108). -/
def lowBit (a : Byte) : Bool := a.getLsbD 0

/-- The bit shifted out by `8xyE` (41_alu.md R110). -/
def highBit (a : Byte) : Bool := a.getLsbD 7

end Sys2Proof.Machine
end

