-- ==== Sys2Proof/Machine/Alu.lean ====
section
/-!
DEFINITION. The immediate and register-to-register ALU instructions (41_alu.md). All arithmetic wraps modulo 256 (R111).
-/

namespace Sys2Proof.Machine

/-- `6xkk LD Vx, kk` (41_alu.md R100; 90_conflicts.md C4). -/
def execLdImm (x : Reg) (kk : Byte) (s : State) : Result := .next (s.setReg x kk)

/-- `7xkk ADD Vx, kk`: no flag (41_alu.md R101). -/
def execAddImm (x : Reg) (kk : Byte) (s : State) : Result := .next (s.setReg x (s.reg x + kk))

/-- `8xy0 LD Vx, Vy` (41_alu.md R102). -/
def execLdReg (x y : Reg) (s : State) : Result := .next (s.setReg x (s.reg y))

/-- `8xy1 OR Vx, Vy`: no flag (41_alu.md R103). -/
def execOrReg (x y : Reg) (s : State) : Result := .next (s.setReg x (s.reg x ||| s.reg y))

/-- `8xy2 AND Vx, Vy`: no flag (41_alu.md R104). -/
def execAndReg (x y : Reg) (s : State) : Result := .next (s.setReg x (s.reg x &&& s.reg y))

/-- `8xy3 XOR Vx, Vy`: no flag (41_alu.md R105). -/
def execXorReg (x y : Reg) (s : State) : Result := .next (s.setReg x (s.reg x ^^^ s.reg y))

/-- `8xy4 ADD Vx, Vy` (41_alu.md R106). -/
def execAddReg (x y : Reg) (s : State) : Result :=
  .next (s.setResult x (s.reg x + s.reg y) (carryOut (s.reg x) (s.reg y)))

/-- `8xy5 SUB Vx, Vy` (41_alu.md R107). -/
def execSubReg (x y : Reg) (s : State) : Result :=
  .next (s.setResult x (s.reg x - s.reg y) (noBorrow (s.reg x) (s.reg y)))

/-- `8xy6 SHR Vx`: V[y] is neither read nor written (41_alu.md R108). -/
def execShr (x : Reg) (s : State) : Result :=
  .next (s.setResult x (s.reg x >>> 1) (lowBit (s.reg x)))

/-- `8xy7 SUBN Vx, Vy` (41_alu.md R109). -/
def execSubn (x y : Reg) (s : State) : Result :=
  .next (s.setResult x (s.reg y - s.reg x) (noBorrow (s.reg y) (s.reg x)))

/-- `8xyE SHL Vx`: V[y] is neither read nor written (41_alu.md R110). -/
def execShl (x : Reg) (s : State) : Result :=
  .next (s.setResult x (s.reg x <<< 1) (highBit (s.reg x)))

end Sys2Proof.Machine
end

