-- ==== Sys2Proof/Machine/Operands.lean ====
section
/-!
DEFINITION. The operand forms: immediates and register values extended (30_encoding.md R72), targets, the addresses formed
from I (42_index_memory.md), the register block of `Fx55`, and the digits of `Fx33`.
-/

namespace Sys2Proof.Machine

/-- `zext_16(nnn)` (30_encoding.md R72). -/
def addrOperand (nnn : Addr12) : Word := nnn.setWidth 16

/-- `zext_16` of a byte (00_scope.md R7). -/
def zext16 (b : Byte) : Word := b.setWidth 16

/-- The target of `Bnnn`: `nnn + V[0]`, not reduced modulo 4096 (40_control_flow.md R90). -/
def State.indexedTarget (s : State) (nnn : Addr12) : Word := addrOperand nnn + zext16 (s.reg 0)

/-- The address in I as an unbounded natural number (20_memory.md R44). -/
def State.iAddr (s : State) : Nat := s.i.toNat

/-- The address of the built-in glyph of a digit: `5 * V[x]`, the whole byte (42_index_memory.md R122). -/
def glyphAddr (b : Byte) : Word := 5 * zext16 b

/-- V[0] to V[x], the registers `Fx55` stores (42_index_memory.md R124). -/
def State.regBlock (s : State) (x : Reg) : List Byte := s.v.toList.take (x.val + 1)

/-- The hundreds, tens and ones digits of a byte (42_index_memory.md R123). -/
def decimalDigits (b : Byte) : List Byte :=
  [BitVec.ofNat 8 (b.toNat / 100), BitVec.ofNat 8 (b.toNat / 10 % 10), BitVec.ofNat 8 (b.toNat % 10)]

end Sys2Proof.Machine
end

