-- ==== Sys2Proof/Machine/Control.lean ====
section
/-!
DEFINITION. NOP, return, jumps, call and skips (40_control_flow.md). On entry `pc` is the address of the next instruction in
memory (10_state.md R24).
-/

namespace Sys2Proof.Machine

/-- Every unmatched word, NOP (40_control_flow.md R82). -/
def execNop (s : State) : Result := .next s

/-- `00EE RET` (40_control_flow.md R83). -/
def execRet (s : State) : Result :=
  s.settle (s.pop.map fun p => p.2.setPc p.1)

/-- `1nnn JP nnn` (40_control_flow.md R84). -/
def execJp (nnn : Addr12) (s : State) : Result := .next (s.setPc (addrOperand nnn))

/-- `2nnn CALL nnn` (40_control_flow.md R85). -/
def execCall (nnn : Addr12) (s : State) : Result :=
  s.settle ((s.push s.pc).map fun t => t.setPc (addrOperand nnn))

/-- `3xkk SE Vx, kk` (40_control_flow.md R86). -/
def execSeImm (x : Reg) (kk : Byte) (s : State) : Result := .next (s.skipIf (s.reg x == kk))

/-- `4xkk SNE Vx, kk` (40_control_flow.md R87). -/
def execSneImm (x : Reg) (kk : Byte) (s : State) : Result := .next (s.skipIf (s.reg x != kk))

/-- `5xy0 SE Vx, Vy` (40_control_flow.md R88). -/
def execSeReg (x y : Reg) (s : State) : Result := .next (s.skipIf (s.reg x == s.reg y))

/-- `9xy0 SNE Vx, Vy` (40_control_flow.md R89). -/
def execSneReg (x y : Reg) (s : State) : Result := .next (s.skipIf (s.reg x != s.reg y))

/-- `Bnnn JP V0, nnn` (40_control_flow.md R90). -/
def execJpV0 (nnn : Addr12) (s : State) : Result := .next (s.setPc (s.indexedTarget nnn))

end Sys2Proof.Machine
end

