-- ==== Sys2Proof/Machine/Display.lean ====
section
/-!
DEFINITION. The display instructions (43_display.md).
-/

namespace Sys2Proof.Machine

/-- `00E0 CLS` (43_display.md R130). -/
def execCls (s : State) : Result := .next (s.setFb blankScreen)

/-- Draw a sprite at (V[x], V[y]), both read before VF is written, and write VF with the collision (43_display.md R131). -/
def State.draw (s : State) (x y : Reg) (sprite : List Byte) : State :=
  let p := drawSprite s.fb (s.reg x).toNat (s.reg y).toNat sprite
  (s.setFb p.1).setFlag p.2

/-- `Dxyn DRW Vx, Vy, n` (43_display.md R131). With `n = 0` nothing is read, nothing drawn, and VF becomes 0. -/
def execDrw (x y : Reg) (n : Nibble) (s : State) : Result :=
  s.settle ((s.memRead s.iAddr n.toNat).map fun sprite => s.draw x y sprite)

end Sys2Proof.Machine
end

