-- ==== Sys2Proof/Machine/Index.lean ====
section
/-!
DEFINITION. The index register and memory instructions (42_index_memory.md). No access modifies I.
-/

namespace Sys2Proof.Machine

/-- `Annn LD I, nnn` (42_index_memory.md R120). -/
def execLdI (nnn : Addr12) (s : State) : Result := .next (s.setI (addrOperand nnn))

/-- `Fx1E ADD I, Vx`: modulo 65536, no flag (42_index_memory.md R121). -/
def execAddI (x : Reg) (s : State) : Result := .next (s.setI (s.i + zext16 (s.reg x)))

/-- `Fx29 LD F, Vx`: the whole byte is multiplied (42_index_memory.md R122). -/
def execLdF (x : Reg) (s : State) : Result := .next (s.setI (glyphAddr (s.reg x)))

/-- `Fx33 LD B, Vx` (42_index_memory.md R123). -/
def execLdB (x : Reg) (s : State) : Result :=
  s.settle (s.memWrite s.iAddr (decimalDigits (s.reg x)))

/-- `Fx55 LD [I], Vx` (42_index_memory.md R124). -/
def execStRegs (x : Reg) (s : State) : Result :=
  s.settle (s.memWrite s.iAddr (s.regBlock x))

/-- `Fx65 LD Vx, [I]` (42_index_memory.md R125). -/
def execLdRegs (x : Reg) (s : State) : Result :=
  s.settle ((s.memRead s.iAddr (x.val + 1)).map s.loadRegs)

end Sys2Proof.Machine
end

