-- ==== Sys2Proof/Machine/Keyboard.lean ====
section
/-!
DEFINITION. The keyboard instructions (44_keyboard.md).
-/

namespace Sys2Proof.Machine

/-- `Ex9E SKP Vx` (44_keyboard.md R140). -/
def execSkp (x : Reg) (s : State) : Result :=
  s.settle ((s.keyDown (s.reg x)).map fun down => s.skipIf down)

/-- `ExA1 SKNP Vx` (44_keyboard.md R141). -/
def execSknp (x : Reg) (s : State) : Result :=
  s.settle ((s.keyDown (s.reg x)).map fun down => s.skipIf (!down))

/-- `Fx0A LD Vx, K`: the first of its two transitions (44_keyboard.md R142); a mapped KeyPress is the second (R143). -/
def execLdVxK (x : Reg) (s : State) : Result := .next (s.setRun (.awaitingKey x))

end Sys2Proof.Machine
end

