-- ==== Sys2Proof/Machine/Timers.lean ====
section
/-!
DEFINITION. The timer and random instructions (45_timers_random.md). The directions of the timer transfers are the spec's,
from general knowledge by its own marking (log entry 17).
-/

namespace Sys2Proof.Machine

/-- `Fx07 LD Vx, DT` (45_timers_random.md R150). -/
def execLdVxDT (x : Reg) (s : State) : Result := .next (s.setReg x s.dt)

/-- `Fx15 LD DT, Vx` (45_timers_random.md R151). -/
def execLdDTVx (x : Reg) (s : State) : Result := .next (s.setDT (s.reg x))

/-- `Fx18 LD ST, Vx` (45_timers_random.md R152). -/
def execLdSTVx (x : Reg) (s : State) : Result := .next (s.setST (s.reg x))

/-- `Cxkk RND Vx, kk`: a fresh free byte and `kk` (45_timers_random.md R153). -/
def execRnd (x : Reg) (kk : Byte) (s : State) : Result :=
  .next (s.draw8.2.setReg x (s.draw8.1 &&& kk))

end Sys2Proof.Machine
end

