-- ==== Sys2Proof/Machine/Engine.lean ====
section
/-!
DEFINITION. The transitions of 00_scope.md R5: the Step (40_control_flow.md R80) and the host's events (60_exceptions.md
R171, 70_reset_and_hazards.md R190 to R193).
-/

namespace Sys2Proof.Machine

/-! ## The Step -/

/-- The fetch: the word at `pc`, big-endian, both bytes range-checked (40_control_flow.md R80, 20_memory.md R42, R45). -/
def State.fetch (s : State) : Except Stop Instr :=
  match checkRange s.pc.toNat 2 with
  | .error e => .error e
  | .ok _ => .ok (decode (wordOfBytes (s.byteAt s.pc.toNat) (s.byteAt (s.pc.toNat + 1))))

/-- Fetch, advance, execute. A fetch fault leaves `pc` at the fetch address (40_control_flow.md R80, 60_exceptions.md
R167). -/
def State.fetchExecute (s : State) : Result :=
  match s.fetch with
  | .error e => s.settle (.error e)
  | .ok i => exec i s.advance

/-- The Step: enabled only when RUN is Running (40_control_flow.md R80), and given a meaning only after a Load
(70_reset_and_hazards.md R193). -/
def State.engineStep (s : State) : Result :=
  match s.run with
  | .awaitingKey x => .fault (.awaitingKey x)
  | .faulted cause info => .fault (.halted cause info)
  | .running =>
    match s.boot with
    | .loaded => s.fetchExecute
    | .afterReset => .refused .stepBeforeLoad
    | .unloaded => .refused .stepBeforeLoad

/-! ## The host's events -/

/-- Another event than Load has come: a Load is no longer directly after Reset (70_reset_and_hazards.md R193; log entry
3). -/
def State.pastReset (s : State) : State :=
  match s.boot with
  | .afterReset => s.setBoot .unloaded
  | .unloaded => s
  | .loaded => s

/-- Reset (70_reset_and_hazards.md R190), enabled in every run state. What is no state of the CORE's stays: GLYPH_ROM, the
count of draws and the host's schedule (log entry 11). -/
def State.hostReset (s : State) : Result :=
  .next (((State.resetWith s.glyphRom).setDraws s.draws).setSchedule s.schedule)

/-- Load (70_reset_and_hazards.md R191, R192): refused but directly after Reset (R193). -/
def State.hostLoad (s : State) (bytes : List Byte) : Result :=
  match s.run, s.boot with
  | .running, .afterReset =>
    if bytes.length > Config.loadMax then .next (s.raise .loadTooLarge bytes.length)
    else .next (((s.setBytes Config.loadAddr bytes).setPc (BitVec.ofNat 16 Config.loadAddr)).setBoot .loaded)
  | _, _ => .refused .loadNotAfterReset

/-- One decrement of a countdown timer, which stops at 0 (45_timers_random.md R154; log entry 18). -/
def countDown (b : Byte) : Byte := if b = 0 then 0 else b - 1

/-- Whether an event has an effect: none in Faulted (60_exceptions.md R166, R171). -/
def Run.listens : Run → Bool
  | .running => true
  | .awaitingKey _ => true
  | .faulted _ _ => false

/-- Tick (45_timers_random.md R154). -/
def State.hostTick (s : State) : Result :=
  .next (if s.run.listens then ((s.setDT (countDown s.dt)).setST (countDown s.st)).pastReset else s)

/-- KeySet(k, b) (44_keyboard.md R145). -/
def State.hostKeySet (s : State) (k : Reg) (down : Bool) : Result :=
  .next (if s.run.listens then (s.setKey k down).pastReset else s)

/-- The value of a key as a byte. -/
def keyByte (m : Reg) : Byte := BitVec.ofNat 8 m.val

/-- KeyPress(m) (44_keyboard.md R143): a mapped press ends a wait; every other changes nothing and is not remembered. As
any event it moves the boot record, but in Faulted. -/
def State.hostKeyPress (s : State) (m : Option Reg) : Result :=
  .next
    (match s.run, m with
    | .awaitingKey x, some k => ((s.setReg x (keyByte k)).setRun .running).pastReset
    | .awaitingKey _, none => s.pastReset
    | .running, _ => s.pastReset
    | .faulted _ _, _ => s)

/-- One transition, as the host orders it. -/
def State.perform (s : State) : Transition → Result
  | .reset => s.hostReset
  | .load bytes => s.hostLoad bytes
  | .step => s.engineStep
  | .tick => s.hostTick
  | .keySet k down => s.hostKeySet k down
  | .keyPress m => s.hostKeyPress m

/-- The next transition: the oldest of the schedule, which leaves it; a Step when the schedule is empty (60_exceptions.md
R171, 20_memory.md R52; log entry 2). -/
def State.nextTransition (s : State) : Result :=
  match s.schedule with
  | [] => s.engineStep
  | t :: rest => (s.setSchedule rest).perform t

/-! ## Placing an instruction where the next step fetches it -/

/-- Stand for the host's Load where none has been: the next Step then fetches at 0x200, as after a Load (70_reset_and_hazards.md
R191, R193). With a program loaded, the fetch address stays, but for one above 0xFFE, which cannot be fetched from. -/
def State.readyToFetch (s : State) : State :=
  let pc : Word :=
    match s.boot with
    | .loaded => if s.pc.toNat + 1 > Config.memTop then BitVec.ofNat 16 Config.loadAddr else s.pc
    | .afterReset => BitVec.ofNat 16 Config.loadAddr
    | .unloaded => BitVec.ofNat 16 Config.loadAddr
  (((s.setPc pc).setRun .running).setBoot .loaded).setSchedule []

/-- Store an instruction word where the next step fetches it (log entry 3). -/
def State.placeWord (s : State) (w : Word) : State :=
  s.readyToFetch.setBytes s.readyToFetch.pc.toNat (bytesOfWord w)

end Sys2Proof.Machine
end

