-- ==== Sys2Proof/Safety.lean ====
section
/-!
DEFINITION. What claims about runs are stated in: a run that has gone wrong, the end of a run (END_OF_RUN is an argument,
00_scope.md R4, 70_reset_and_hazards.md R194), and the invariant of every transition.
-/

namespace Sys2Proof.Safety

open Sys2Proof.Machine

/-- The run has gone wrong: RUN is Faulted (60_exceptions.md R166). -/
def isFaulted (s : State) : Bool :=
  match s.run with
  | .running => false
  | .awaitingKey _ => false
  | .faulted _ _ => true

/-- The convention for END_OF_RUN that 70_reset_and_hazards.md R194 recommends: RUN is Running and the word at `pc` is a
jump to itself. -/
def selfJump (s : State) : Bool :=
  s.run == .running && match s.fetch with
    | .ok i => i == .jp (s.pc.setWidth 12)
    | .error _ => false

/-- Within `k` steps the run reaches a state that `endOfRun` accepts, and no state on the way is Faulted. -/
def endsWithin (endOfRun : State → Bool) : Nat → State → Bool
  | 0, s => !isFaulted s && endOfRun s
  | k + 1, s => !isFaulted s && (endOfRun s || match step s with
    | .next t => endsWithin endOfRun k t
    | .fault _ => false
    | .refused _ => false)

/-- The fault record says what happened (60_exceptions.md R160): the condition of its cause holds of the recorded value,
and for the stack faults, of SP, since a fault changes nothing else (R167). That a Load turned away leaves the boot record at
afterReset is the model's choice (log entry 3). -/
def faultRecordTrue (s : State) : Prop :=
  match s.run with
  | .running => True
  | .awaitingKey _ => True
  | .faulted .stackOverflow info => s.sp = 16 ∧ info ≤ 0x1000
  | .faulted .stackUnderflow info => s.sp = 0 ∧ info = 0
  | .faulted .memRange info => 0x1000 ≤ info ∧ info ≤ 0xFFFF
  | .faulted .keyIndex info => 16 ≤ info ∧ info ≤ 255
  | .faulted .loadTooLarge info => 3584 ≤ info ∧ s.boot = .afterReset

/-- Everything but the key bits is as Reset left it, and no instruction has run: what a program may rely on at its first
instruction (70_reset_and_hazards.md R193), the program and `pc` apart. -/
structure AsReset (s : State) : Prop where
  regs : ∀ x : Reg, s.reg x = 0
  pc : s.pc = 0
  i : s.i = 0
  sp : s.sp = 0
  stack : ∀ k : Fin 16, s.stack.get k = 0
  timers : s.dt = 0 ∧ s.st = 0
  screen : ∀ x y : Nat, s.pixel x y = false
  memory : s.mem = []
  run : s.run = .running ∨ ∃ info, s.run = .faulted .loadTooLarge info

/-- The invariant of every transition. -/
structure Inv (s : State) : Prop where
  /-- Memory is in its canonical form (log entry 5). -/
  memory : Memory.wf s.glyphRom s.mem
  /-- SP is 0 to 16 (10_state.md R26). -/
  stackPointer : s.sp.toNat ≤ 16
  /-- The highest `pc` a Step can leave is the highest target of `Bnnn` (40_control_flow.md R90; 10_state.md R23). -/
  pcBound : s.pc.toNat ≤ 0x10FE
  /-- A return address is an advanced fetch address, at most 0x1000 (92_eei_decisions.md D4; 40_control_flow.md R80, R85). -/
  returnAddresses : ∀ k : Fin 16, (s.stack.get k).toNat ≤ 0x1000
  /-- A fault record says what happened (60_exceptions.md R160). -/
  faultRecord : faultRecordTrue s
  /-- Before the Load nothing but key bits has changed (70_reset_and_hazards.md R193; that events may come before it: log
entry 3). -/
  beforeLoad : s.boot ≠ .loaded → AsReset s

end Sys2Proof.Safety
end

