-- ==== Sys2Proof/WellFormed.lean ====
section
/-!
DEFINITION. Well-formed instructions. The operand types already hold each field to its width (30_encoding.md R61); the one
check left is that the word a NOP stands for selects no other instruction (R65, R67, R68, R69, R70).
-/

namespace Sys2Proof

/-- The masks and patterns of the 34 instructions, in the order of 30_encoding.md R64: a word `w` matches a row when
`w &&& mask = pattern`. -/
def instructionRows : List (Word × Word) :=
  [ (0xFFFF, 0x00E0), (0xFFFF, 0x00EE), (0xF000, 0x1000), (0xF000, 0x2000), (0xF000, 0x3000), (0xF000, 0x4000),
    (0xF000, 0x5000), (0xF000, 0x6000), (0xF000, 0x7000) ]
  ++ [ (0xF00F, 0x8000), (0xF00F, 0x8001), (0xF00F, 0x8002), (0xF00F, 0x8003), (0xF00F, 0x8004), (0xF00F, 0x8005),
    (0xF00F, 0x8006), (0xF00F, 0x8007), (0xF00F, 0x800E) ]
  ++ [ (0xF000, 0x9000), (0xF000, 0xA000), (0xF000, 0xB000), (0xF000, 0xC000), (0xF000, 0xD000), (0xF0FF, 0xE09E),
    (0xF0FF, 0xE0A1) ]
  ++ [ (0xF0FF, 0xF007), (0xF0FF, 0xF00A), (0xF0FF, 0xF015), (0xF0FF, 0xF018), (0xF0FF, 0xF01E), (0xF0FF, 0xF029),
    (0xF0FF, 0xF033), (0xF0FF, 0xF055), (0xF0FF, 0xF065) ]

/-- The word matches none of the 34 instructions (30_encoding.md R70). -/
def unmatched (w : Word) : Bool :=
  instructionRows.all fun r => w &&& r.1 != r.2

/-- An instruction is well formed when it is the decoding of some word. -/
def Instr.wellFormed : Instr → Bool
  | .nop w => unmatched w
  | .cls | .ret | .jp _ | .call _ | .seImm _ _ | .sneImm _ _ | .seReg _ _ _ | .ldImm _ _ | .addImm _ _ => true
  | .ldReg _ _ | .orReg _ _ | .andReg _ _ | .xorReg _ _ | .addReg _ _ | .subReg _ _ | .shr _ _ | .subn _ _ => true
  | .shl _ _ | .sneReg _ _ _ | .ldI _ | .jpV0 _ | .rnd _ _ | .drw _ _ _ | .skp _ | .sknp _ | .ldVxDT _ => true
  | .ldVxK _ | .ldDTVx _ | .ldSTVx _ | .addI _ | .ldF _ | .ldB _ | .stRegs _ | .ldRegs _ => true

end Sys2Proof
end

