-- ==== Sys2Proof/Certificates/Slice0/Obligations.lean ====
section
/-!
DEFINITION. The statements for the provers, and the predicates they are written in.

Every statement about an instruction has the precondition of Execute, RUN = Running (40_control_flow.md R81). A word is given
as a number put together from the fields of 30_encoding.md R61; register values are given as natural numbers, as the rules
give them (00_scope.md R6).

Most numeric patterns are from general knowledge by the spec's own marking (GK in 30_encoding.md R64, 92_eei_decisions.md
D12). A statement that names such a word says "pattern: log entry 14" and counts as derived for it.
-/

namespace Sys2Proof.Claim

open Sys2Proof.Machine

/-- The pieces of state that a frame speaks of. -/
inductive Part where
  | regs | pc | index | stack | delay | sound | keys | screen | memory | run | draws
  deriving DecidableEq, Repr

/-- A piece of state is the same before and after. Memory is read byte by byte, the screen pixel by pixel. -/
def Same (s t : State) : Part → Prop
  | .regs => ∀ r : Reg, t.reg r = s.reg r
  | .pc => t.pc = s.pc
  | .index => t.i = s.i
  | .stack => t.sp = s.sp ∧ ∀ k : Fin 16, t.stack.get k = s.stack.get k
  | .delay => t.dt = s.dt
  | .sound => t.st = s.st
  | .keys => ∀ k : Fin 16, t.keys.get k = s.keys.get k
  | .screen => ∀ x y : Nat, t.pixel x y = s.pixel x y
  | .memory => ∀ a : Nat, t.byteAt a = s.byteAt a
  | .run => t.run = s.run
  | .draws => t.draws = s.draws

/-- Every piece of state but the named ones is the same; GLYPH_ROM always is. -/
def Keeps (changed : List Part) (s t : State) : Prop :=
  (∀ p : Part, p ∉ changed → Same s t p) ∧ t.glyphRom = s.glyphRom

/-- The frame of an instruction: every piece of state but the named ones is the same, the model's own fields among them. -/
def OnlyChanges (changed : List Part) (s t : State) : Prop :=
  Keeps changed s t ∧ t.boot = s.boot ∧ t.schedule = s.schedule

/-- The word with the number `n` decodes to `i`. -/
def IsWord (n : Nat) (i : Instr) : Prop := decode (BitVec.ofNat 16 n) = i

/-- The instruction raises the fault and changes nothing but RUN. -/
def Faults (i : Instr) (s : State) (cause : Cause) (info : Nat) : Prop :=
  ∃ t, exec i s = .next t ∧ t.run = .faulted cause info ∧ OnlyChanges [.run] s t

/-- Register `x` holds the result and nothing else has changed. -/
def HoldsResult (x : Reg) (result : Nat) (s t : State) : Prop :=
  (t.reg x).toNat = result ∧ (∀ r : Reg, r ≠ x → t.reg r = s.reg r) ∧ OnlyChanges [.regs] s t

/-- VF holds the flag, register `x` the result if it is not VF, and nothing else has changed. -/
def HoldsResultAndFlag (x : Reg) (result : Nat) (flag : Prop) [Decidable flag] (s t : State) : Prop :=
  (t.reg VF).toNat = (if flag then 1 else 0) ∧ (x ≠ VF → (t.reg x).toNat = result) ∧
  (∀ r : Reg, r ≠ x → r ≠ VF → t.reg r = s.reg r) ∧ OnlyChanges [.regs] s t

/-- The next instruction is skipped exactly when the condition holds: `pc` is 2 higher modulo 65536, or as it was. -/
def SkipsWhen (condition : Prop) [Decidable condition] (s t : State) : Prop :=
  t.pc.toNat = (s.pc.toNat + (if condition then 2 else 0)) % 65536 ∧ OnlyChanges [.pc] s t

/-- The words that select none of the 34 instructions (30_encoding.md R65, R67, R68, R69). -/
def Unmatched (w : Word) : Prop :=
  (w.toNat / 4096 = 0 ∧ w ≠ 0x00E0 ∧ w ≠ 0x00EE) ∨
  (w.toNat / 4096 = 8 ∧ w.toNat % 16 ∈ [8, 9, 0xA, 0xB, 0xC, 0xD, 0xF]) ∨
  (w.toNat / 4096 = 0xE ∧ w.toNat % 256 ∉ [0x9E, 0xA1]) ∨
  (w.toNat / 4096 = 0xF ∧ w.toNat % 256 ∉ [0x07, 0x0A, 0x15, 0x18, 0x1E, 0x29, 0x33, 0x55, 0x65])

/-- A sprite bit of 1 falls on the pixel at column `px` and row `py`: row `row` of the sprite is the byte at I + row, and bit
7 is column 0 (43_display.md R131, R132, R134). -/
def Lit (s : State) (x y : Reg) (n px py : Nat) : Prop :=
  ∃ row col : Nat, row < n ∧ col < 8 ∧ (s.byteAt (s.i.toNat + row)).getLsbD (7 - col) = true ∧
    px = ((s.reg x).toNat + col) % 64 ∧ py = ((s.reg y).toNat + row) % 32

/-- Every piece of state holds the reset value of 10_state.md R37. -/
def ResetValues (rom : GlyphRom) (t : State) : Prop :=
  (∀ r : Reg, t.reg r = 0) ∧ t.pc = 0 ∧ t.i = 0 ∧ t.sp = 0 ∧ (∀ k : Fin 16, t.stack.get k = 0) ∧ t.dt = 0 ∧ t.st = 0 ∧
  (∀ k : Fin 16, t.keys.get k = false) ∧ (∀ x y : Nat, t.pixel x y = false) ∧
  (∀ (d : Fin 16) (j : Fin 5), t.byteAt (5 * d.val + j.val) = (rom.get d).get j) ∧
  (∀ a : Nat, 0x50 ≤ a → t.byteAt a = 0) ∧ t.run = .running

/-- The pieces of state an instruction may write when it raises no fault: 10_state.md R20 to R31, R33, 20_memory.md R48. -/
def writes : Instr → List Part
  | .cls => [.screen]
  | .ret | .call _ => [.pc, .stack]
  | .jp _ | .jpV0 _ | .seImm _ _ | .sneImm _ _ | .seReg _ _ _ | .sneReg _ _ _ | .skp _ | .sknp _ => [.pc]
  | .ldImm _ _ | .addImm _ _ | .ldReg _ _ | .orReg _ _ | .andReg _ _ | .xorReg _ _ | .addReg _ _ => [.regs]
  | .subReg _ _ | .shr _ _ | .subn _ _ | .shl _ _ | .ldVxDT _ | .ldRegs _ => [.regs]
  | .ldI _ | .addI _ | .ldF _ => [.index]
  | .rnd _ _ => [.regs, .draws]
  | .drw _ _ _ => [.regs, .screen]
  | .ldVxK _ => [.run]
  | .ldDTVx _ => [.delay]
  | .ldSTVx _ => [.sound]
  | .ldB _ | .stRegs _ => [.memory]
  | .nop _ => []

/-- The instruction writes VF as a flag (10_state.md R21). -/
def writesFlag : Instr → Bool
  | .addReg _ _ | .subReg _ _ | .shr _ _ | .subn _ _ | .shl _ _ | .drw _ _ _ => true
  | .cls | .ret | .jp _ | .call _ | .seImm _ _ | .sneImm _ _ | .seReg _ _ _ | .ldImm _ _ | .addImm _ _ => false
  | .ldReg _ _ | .orReg _ _ | .andReg _ _ | .xorReg _ _ | .sneReg _ _ _ | .ldI _ | .jpV0 _ | .rnd _ _ => false
  | .skp _ | .sknp _ | .ldVxDT _ | .ldVxK _ | .ldDTVx _ | .ldSTVx _ | .addI _ | .ldF _ | .ldB _ => false
  | .stRegs _ | .ldRegs _ | .nop _ => false

/-- The instruction names the register as its destination. -/
def namesDestination (r : Reg) : Instr → Prop
  | .ldImm x _ | .addImm x _ | .ldReg x _ | .orReg x _ | .andReg x _ | .xorReg x _ | .addReg x _ | .subReg x _ => r = x
  | .shr x _ | .subn x _ | .shl x _ | .rnd x _ | .ldVxDT x => r = x
  | .ldRegs x => r ≤ x
  | .cls | .ret | .jp _ | .call _ | .seImm _ _ | .sneImm _ _ | .seReg _ _ _ | .sneReg _ _ _ | .ldI _ | .jpV0 _ => False
  | .drw _ _ _ | .skp _ | .sknp _ | .ldVxK _ | .ldDTVx _ | .ldSTVx _ | .addI _ | .ldF _ | .ldB _ | .stRegs _ => False
  | .nop _ => False

/-- The boot record after an event other than Load and Reset: a Load is no longer directly after Reset
(70_reset_and_hazards.md R193; log entry 3). -/
def bootAfterEvent : Boot → Boot
  | .afterReset => .unloaded
  | .unloaded => .unloaded
  | .loaded => .loaded

/-- Apply a change of state to the next state of an outcome. -/
def mapNext (f : State → State) : Result → Result
  | .next t => .next (f t)
  | .fault e => .fault e
  | .refused e => .refused e

end Sys2Proof.Claim

open Sys2Proof Sys2Proof.Machine Sys2Proof.Claim

/-! ## Encoding -/

/-- Decoding the word of a well-formed instruction gives it back, every operand at every value. Derived: 30_encoding.md
sections 1 to 3 give one table, which both directions follow. -/
def Obligations.DecodeOfEncodeIsTheInstruction : Prop :=
  ∀ i : Instr, i.wellFormed = true → decode (encode i) = i

/-- Every word is the word of the well-formed instruction it decodes to: no bit of a word is dropped. Derived; that ignored
fields are kept in the instruction is the model's choice (log entry 10). -/
def Obligations.EncodeOfDecodeIsTheWord : Prop :=
  ∀ w : Word, (decode w).wellFormed = true ∧ encode (decode w) = w

/-- The two-level dispatch selects the first row of the opcode map whose masked bits match, the last row, NOP, when none
does (30_encoding.md R63, R64). Derived: most patterns are from general knowledge by the spec's own marking (log entry
14). -/
def Obligations.DispatchSelectsTheFirstMatchingRow : Prop :=
  ∀ w : Word, (decode w).row = instructionRows.findIdx (fun r => w &&& r.1 == r.2)

/-- Exactly the words of 30_encoding.md R65, R67, R68 and R69 are NOPs. Derived: R65 rests on the spec's decision D10 and
R67, R68 on its general knowledge. -/
def Obligations.ExactlyTheUnmatchedWordsAreNops : Prop :=
  ∀ w : Word, decode w = .nop w ↔ Unmatched w

/-- Words written out from the encodings of 30_encoding.md R64 decode to the instructions they stand for. The words are
those of 95_test_vectors.md, but 0x8129, which is the example of 40_control_flow.md R82. Derived: that 0x5127 executes as
SE is the spec's decision D11; that the nibble of 0x5127, the y of 0x8FFE and the word of 0x8129 are kept in the
instruction is the model's choice (log entry 10); pattern: log entry 14. -/
def Obligations.SampleWordsDecode : Prop :=
  decode 0x00E0 = .cls ∧ decode 0x00EE = .ret ∧ decode 0x1ABC = .jp 0xABC ∧ decode 0x220A = .call 0x20A ∧
  decode 0x3542 = .seImm 5 0x42 ∧ decode 0x5127 = .seReg 1 2 7 ∧ decode 0x6A55 = .ldImm 10 0x55 ∧
  decode 0x8FFE = .shl 15 15 ∧ decode 0xA20E = .ldI 0x20E ∧ decode 0xD125 = .drw 1 2 5 ∧ decode 0xE1A1 = .sknp 1 ∧
  decode 0xF265 = .ldRegs 2 ∧ decode 0x8129 = .nop 0x8129

/-! ## The Step -/

/-- A Step fetches the word at `pc` big-endian, advances `pc` by 2 and executes the instruction the word decodes to, whether
the schedule is empty or orders the Step (40_control_flow.md R80, 20_memory.md R45). Derived: the byte order is the spec's
decision D2, the schedule the model's (log entry 2), the Load before it R193's (log entry 3). -/
def Obligations.StepRunsTheDecodedInstruction : Prop :=
  ∀ (s : State) (w : Word) (i : Instr),
    s.run = .running → s.boot = .loaded → s.pc.toNat ≤ 0xFFE →
    w.toNat = (s.byteAt s.pc.toNat).toNat * 256 + (s.byteAt (s.pc.toNat + 1)).toNat →
    decode w = i →
    (s.schedule = [] → step s = exec i (s.setPc (s.pc + 2))) ∧
    (∀ more, s.schedule = .step :: more → step s = exec i ((s.setSchedule more).setPc (s.pc + 2)))

/-- A Step whose fetch would read above 0xFFF raises MEM_RANGE with the lowest such address and changes nothing else, `pc`
among it, whether the schedule is empty or orders the Step. Derived: this is the spec's decision D22, the schedule the
model's (log entry 2). -/
def Obligations.FetchBeyondMemoryFaults : Prop :=
  ∀ s : State, s.run = .running → s.boot = .loaded → 0xFFE < s.pc.toNat →
    (s.schedule = [] → ∃ t, step s = .next t ∧
      t.run = .faulted .memRange (if 0xFFF < s.pc.toNat then s.pc.toNat else 0x1000) ∧ OnlyChanges [.run] s t) ∧
    (∀ more, s.schedule = .step :: more → ∃ t, step s = .next t ∧
      t.run = .faulted .memRange (if 0xFFF < s.pc.toNat then s.pc.toNat else 0x1000) ∧
      OnlyChanges [.run] (s.setSchedule more) t)

/-- No Step is enabled in AwaitingKey and in Faulted, and a Step before the Load is refused. Derived: how an absent
transition is answered is the model's choice (log entries 3, 6, 7). -/
def Obligations.StepThatIsNotEnabledStops : Prop :=
  ∀ s : State, s.schedule = [] ∨ (∃ more, s.schedule = .step :: more) →
    (∀ x, s.run = .awaitingKey x → step s = .fault (.awaitingKey x)) ∧
    (∀ c n, s.run = .faulted c n → step s = .fault (.halted c n)) ∧
    (s.run = .running → s.boot ≠ .loaded → step s = .refused .stepBeforeLoad)

/-! ## The host's events -/

/-- Tick takes one from each timer, which stop at 0, in Running and in AwaitingKey, and changes nothing else but that a
Load is no longer directly after Reset; in Faulted it is taken and has no effect. Derived: one Tick for both timers and
the stop at 0 are the spec's decision D14 (log entry 18), Ticks in the wait its D26, the boot record is the model's (log
entry 3). -/
def Obligations.TickCountsBothTimersDown : Prop :=
  ∀ (s : State) (more : List Transition), s.schedule = .tick :: more →
    ((∀ c n, s.run ≠ .faulted c n) →
      ∃ t, step s = .next t ∧ t.dt.toNat = s.dt.toNat - 1 ∧ t.st.toNat = s.st.toNat - 1 ∧
        Keeps [.delay, .sound] s t ∧ t.boot = bootAfterEvent s.boot ∧ t.schedule = more) ∧
    (∀ c n, s.run = .faulted c n → step s = .next (s.setSchedule more))

/-- KeySet writes one key bit, in Running and in AwaitingKey, ends no wait and changes nothing else but that a Load is no
longer directly after Reset; in Faulted it is taken and has no effect. Derived: the event is the spec's decision D15, the
boot record the model's (log entry 3). -/
def Obligations.KeySetWritesOneKeyBit : Prop :=
  ∀ (s : State) (k : Reg) (down : Bool) (more : List Transition),
    s.schedule = .keySet k down :: more →
    ((∀ c n, s.run ≠ .faulted c n) →
      ∃ t, step s = .next t ∧ t.keys.get k = down ∧ (∀ j : Fin 16, j ≠ k → t.keys.get j = s.keys.get j) ∧
        Keeps [.keys] s t ∧ t.boot = bootAfterEvent s.boot ∧ t.schedule = more) ∧
    (∀ c n, s.run = .faulted c n → step s = .next (s.setSchedule more))

/-- A mapped KeyPress ends the wait: the key's value is written to the latched register and RUN is Running (44_keyboard.md
R143). As any event it leaves a Load no longer directly after Reset. Derived: the event is the spec's decision D15, the boot
record the model's (log entry 3). -/
def Obligations.MappedKeyPressEndsTheWait : Prop :=
  ∀ (s : State) (x m : Reg) (more : List Transition),
    s.schedule = .keyPress (some m) :: more → s.run = .awaitingKey x →
    ∃ t, step s = .next t ∧ (t.reg x).toNat = m.val ∧ t.run = .running ∧ (∀ r : Reg, r ≠ x → t.reg r = s.reg r) ∧
      Keeps [.regs, .run] s t ∧ t.boot = bootAfterEvent s.boot ∧ t.schedule = more

/-- An unmapped KeyPress, and any KeyPress outside a wait, changes nothing and is not remembered (44_keyboard.md R143), but
that outside Faulted a Load is no longer directly after Reset. Derived: the event is the spec's decision D15, the boot record
the model's (log entry 3). -/
def Obligations.OtherKeyPressesChangeNothing : Prop :=
  ∀ (s : State) (m : Option Reg) (more : List Transition),
    s.schedule = .keyPress m :: more → (m = none ∨ ∀ x, s.run ≠ .awaitingKey x) →
    ∃ t, step s = .next t ∧ Keeps [] s t ∧ t.schedule = more ∧
      ((∀ c n, s.run ≠ .faulted c n) → t.boot = bootAfterEvent s.boot) ∧
      (∀ c n, s.run = .faulted c n → t.boot = s.boot)

/-- A Load directly after Reset of at most 3583 bytes puts them at 0x200 and `pc` there, and leaves all else. Derived: what
Load leaves alone is the spec's decision D35, when it is allowed D20 (log entry 3). -/
def Obligations.LoadPlacesTheProgram : Prop :=
  ∀ (s : State) (bytes : List Byte) (more : List Transition),
    s.schedule = .load bytes :: more → s.run = .running → s.boot = .afterReset → bytes.length ≤ 3583 →
    ∃ t, step s = .next t ∧ t.pc = 0x200 ∧
      (∀ j (h : j < bytes.length), t.byteAt (0x200 + j) = bytes[j]) ∧
      (∀ a, a < 0x200 ∨ 0x200 + bytes.length ≤ a → t.byteAt a = s.byteAt a) ∧
      t.boot = .loaded ∧ Keeps [.pc, .memory] s t ∧ t.schedule = more

/-- The Load precondition (70_reset_and_hazards.md R192): 3584 bytes or more are rejected before any mutation, RUN
becoming Faulted(LOAD_TOO_LARGE, L); up to 3583 are accepted. Derived: that the Load is directly after Reset is the spec's
decision D20 (log entry 3), the schedule the model's (log entry 2). -/
def Obligations.LoadTooLargeIsRejected : Prop :=
  ∀ (s : State) (bytes : List Byte) (more : List Transition),
    s.schedule = .load bytes :: more → s.run = .running → s.boot = .afterReset →
    (bytes.length + 0x200 < 4096 → ∃ t, step s = .next t ∧ t.run = .running ∧ t.pc = 0x200) ∧
    (4096 ≤ bytes.length + 0x200 →
      ∃ t, step s = .next t ∧ t.run = .faulted .loadTooLarge bytes.length ∧ Keeps [.run] s t ∧ t.schedule = more)

/-- A Load that is not directly after Reset is refused, a second Load among them. Derived: 70_reset_and_hazards.md R193
tells a model to refuse it, by the spec's decision D20 (log entry 3). -/
def Obligations.LateLoadIsRefused : Prop :=
  ∀ (s : State) (bytes : List Byte) (more : List Transition),
    s.schedule = .load bytes :: more → (s.boot ≠ .afterReset ∨ s.run ≠ .running) →
    step s = .refused .loadNotAfterReset

/-- Reset puts every piece of state at its reset value, from every state, whatever RUN is (70_reset_and_hazards.md R190). -/
def Obligations.ResetRestoresEveryPieceOfState : Prop :=
  ∀ (s : State) (more : List Transition), s.schedule = .reset :: more →
    ∃ t, step s = .next t ∧ ResetValues s.glyphRom t

/-- After Reset a Load is directly after Reset, whatever went before; what is no state of the CORE's stays: GLYPH_ROM, the
count of draws and what the host orders next. Derived: that Reset opens the boot order again is 60_exceptions.md section 3
and 70_reset_and_hazards.md section 3, the boot record the model's (log entry 3), what stays the model's choice (log entry
11). -/
def Obligations.ResetReopensTheLoad : Prop :=
  ∀ (s : State) (more : List Transition), s.schedule = .reset :: more →
    ∃ t, step s = .next t ∧ t.run = .running ∧ t.boot = .afterReset ∧ t.glyphRom = s.glyphRom ∧ t.draws = s.draws ∧
      t.schedule = more

/-- The state right after reset holds the values of 10_state.md R37, for every GLYPH_ROM; with the default one the bytes of
vector V-R1 stand in memory. Derived: the default font is the spec's decision D17 (log entry 4). -/
def Obligations.ResetStateHoldsTheResetValues : Prop :=
  (∀ rom, ResetValues rom (State.resetWith rom)) ∧ ResetValues Config.defaultGlyphRom State.reset ∧
  State.reset.byteAt 0x000 = 0xF0 ∧ State.reset.byteAt 0x001 = 0x90 ∧ State.reset.byteAt 0x04F = 0x80

/-! ## Control transfer -/

/-- NOP (40_control_flow.md R82): an unmatched word decodes to NOP, which changes nothing. Derived: the list of
unmatched words rests on the spec's decision D10 and its general knowledge (log entry 14). -/
def Obligations.NopChangesNothing : Prop :=
  ∀ (s : State) (w : Word), s.run = .running →
    exec (.nop w) s = .next s ∧ (Unmatched w → decode w = .nop w ∧ exec (decode w) s = .next s)

/-- RET (40_control_flow.md R83): pops the stack into `pc`, the entry stays; with SP = 0 it raises STACK_UNDERFLOW and
changes nothing else. Derived; pattern: log entry 14. -/
def Obligations.RetPopsThePc : Prop :=
  ∀ s : State, s.run = .running →
    IsWord 0x00EE .ret ∧
    (s.sp = 0 → Faults .ret s .stackUnderflow 0) ∧
    (∀ k : Fin 16, s.sp.toNat = k.val + 1 →
      ∃ t, exec .ret s = .next t ∧ t.pc = s.stack.get k ∧ t.sp.toNat = k.val ∧
        (∀ j : Fin 16, t.stack.get j = s.stack.get j) ∧ OnlyChanges [.pc, .stack] s t)

/-- JP (40_control_flow.md R84): `pc` becomes the 12-bit target.
Derived; pattern: log entry 14. -/
def Obligations.JpSetsThePc : Prop :=
  ∀ (s : State) (nnn : Addr12), s.run = .running →
    IsWord (0x1000 + nnn.toNat) (.jp nnn) ∧
    ∃ t, exec (.jp nnn) s = .next t ∧ t.pc.toNat = nnn.toNat ∧ OnlyChanges [.pc] s t

/-- CALL (40_control_flow.md R85): pushes `pc`, which is the address of the instruction after it, and jumps; with SP = 16 it
raises STACK_OVERFLOW with that address and changes nothing else.
Derived; pattern: log entry 14. -/
def Obligations.CallPushesThePc : Prop :=
  ∀ (s : State) (nnn : Addr12), s.run = .running →
    IsWord (0x2000 + nnn.toNat) (.call nnn) ∧
    (s.sp = 16 → Faults (.call nnn) s .stackOverflow s.pc.toNat) ∧
    (∀ k : Fin 16, s.sp.toNat = k.val →
      ∃ t, exec (.call nnn) s = .next t ∧ t.pc.toNat = nnn.toNat ∧ t.sp.toNat = k.val + 1 ∧
        t.stack.get k = s.pc ∧ (∀ j : Fin 16, j ≠ k → t.stack.get j = s.stack.get j) ∧ OnlyChanges [.pc, .stack] s t)

/-- CALL followed immediately by RET restores `pc` to the instruction immediately after the CALL, and SP (40_control_flow.md
R85; 95_test_vectors.md S7). Derived: two instructions are run one after the other. -/
def Obligations.CallThenRetReturns : Prop :=
  ∀ (s : State) (nnn : Addr12), s.run = .running → s.sp.toNat < 16 →
    ∃ t u, exec (.call nnn) s = .next t ∧ exec .ret t = .next u ∧ u.pc = s.pc ∧ u.sp = s.sp ∧
      OnlyChanges [.pc, .stack] s u

/-- SE and SNE with an immediate (40_control_flow.md R86, R87).
Derived; pattern: log entry 14. -/
def Obligations.ImmediateSkips : Prop :=
  ∀ (s : State) (x : Reg) (kk : Byte), s.run = .running →
    IsWord (0x3000 + x.val * 256 + kk.toNat) (.seImm x kk) ∧ IsWord (0x4000 + x.val * 256 + kk.toNat) (.sneImm x kk) ∧
    (∃ t, exec (.seImm x kk) s = .next t ∧ SkipsWhen ((s.reg x).toNat = kk.toNat) s t) ∧
    (∃ t, exec (.sneImm x kk) s = .next t ∧ SkipsWhen ((s.reg x).toNat ≠ kk.toNat) s t)

/-- SE and SNE with two registers, whatever the low nibble of the word (40_control_flow.md R88, R89). Derived: that the low
nibble is ignored is the spec's decision D11; pattern: log entry 14. -/
def Obligations.RegisterSkips : Prop :=
  ∀ (s : State) (x y : Reg) (n : Nibble), s.run = .running →
    IsWord (0x5000 + x.val * 256 + y.val * 16 + n.toNat) (.seReg x y n) ∧
    IsWord (0x9000 + x.val * 256 + y.val * 16 + n.toNat) (.sneReg x y n) ∧
    (∃ t, exec (.seReg x y n) s = .next t ∧ SkipsWhen ((s.reg x).toNat = (s.reg y).toNat) s t) ∧
    (∃ t, exec (.sneReg x y n) s = .next t ∧ SkipsWhen ((s.reg x).toNat ≠ (s.reg y).toNat) s t)

/-- JP V0 (40_control_flow.md R90): `pc` becomes nnn + V[0], which does not wrap.
Derived; pattern: log entry 14. -/
def Obligations.IndexedJumpAddsV0 : Prop :=
  ∀ (s : State) (nnn : Addr12), s.run = .running →
    IsWord (0xB000 + nnn.toNat) (.jpV0 nnn) ∧
    ∃ t, exec (.jpV0 nnn) s = .next t ∧ t.pc.toNat = nnn.toNat + (s.reg 0).toNat ∧ OnlyChanges [.pc] s t

/-! ## The ALU -/

/-- LD with an immediate (41_alu.md R100). -/
def Obligations.LdImmWritesTheImmediate : Prop :=
  ∀ (s : State) (x : Reg) (kk : Byte), s.run = .running →
    IsWord (0x6000 + x.val * 256 + kk.toNat) (.ldImm x kk) ∧
    ∃ t, exec (.ldImm x kk) s = .next t ∧ HoldsResult x kk.toNat s t

/-- ADD with an immediate: modulo 256, no flag (41_alu.md section 1; 95_test_vectors.md S1). Derived: that VF as the
destination gets the sum is the spec's own derivation from R20; pattern: log entry 14. -/
def Obligations.AddImmWrapsWithoutAFlag : Prop :=
  ∀ (s : State) (x : Reg) (kk : Byte), s.run = .running →
    IsWord (0x7000 + x.val * 256 + kk.toNat) (.addImm x kk) ∧
    ∃ t, exec (.addImm x kk) s = .next t ∧ HoldsResult x (((s.reg x).toNat + kk.toNat) % 256) s t

/-- LD between registers (41_alu.md R102).
Derived; pattern: log entry 14. -/
def Obligations.LdRegCopies : Prop :=
  ∀ (s : State) (x y : Reg), s.run = .running →
    IsWord (0x8000 + x.val * 256 + y.val * 16) (.ldReg x y) ∧
    ∃ t, exec (.ldReg x y) s = .next t ∧ HoldsResult x (s.reg y).toNat s t

/-- OR, AND, XOR: bitwise, no flag (41_alu.md section 2). Derived: that VF is unchanged is the spec's decision D25; pattern:
log entry 14. -/
def Obligations.BitwiseOperationsSetNoFlag : Prop :=
  ∀ (s : State) (x y : Reg), s.run = .running →
    IsWord (0x8001 + x.val * 256 + y.val * 16) (.orReg x y) ∧ IsWord (0x8002 + x.val * 256 + y.val * 16) (.andReg x y) ∧
    IsWord (0x8003 + x.val * 256 + y.val * 16) (.xorReg x y) ∧
    (∃ t, exec (.orReg x y) s = .next t ∧ HoldsResult x ((s.reg x).toNat ||| (s.reg y).toNat) s t) ∧
    (∃ t, exec (.andReg x y) s = .next t ∧ HoldsResult x ((s.reg x).toNat &&& (s.reg y).toNat) s t) ∧
    (∃ t, exec (.xorReg x y) s = .next t ∧ HoldsResult x ((s.reg x).toNat ^^^ (s.reg y).toNat) s t)

/-- ADD of registers (41_alu.md R106): VF is the carry, and with x = 0xF the carry is what VF holds. -/
def Obligations.AddRegSetsTheCarry : Prop :=
  ∀ (s : State) (x y : Reg), s.run = .running →
    IsWord (0x8004 + x.val * 256 + y.val * 16) (.addReg x y) ∧
    ∃ t, exec (.addReg x y) s = .next t ∧
      HoldsResultAndFlag x (((s.reg x).toNat + (s.reg y).toNat) % 256) ((s.reg x).toNat + (s.reg y).toNat > 255) s t

/-- SUB (41_alu.md R107): the flag is strict, so equal operands give 0, and with x = 0xF the flag is what VF holds. -/
def Obligations.SubRegSetsTheStrictFlag : Prop :=
  ∀ (s : State) (x y : Reg), s.run = .running →
    IsWord (0x8005 + x.val * 256 + y.val * 16) (.subReg x y) ∧
    ∃ t, exec (.subReg x y) s = .next t ∧
      HoldsResultAndFlag x ((256 + (s.reg x).toNat - (s.reg y).toNat) % 256) ((s.reg x).toNat > (s.reg y).toNat) s t

/-- SUBN (41_alu.md R109): as SUB with the operands exchanged, the destination still V[x].
Derived; pattern: log entry 14. -/
def Obligations.SubnSetsTheStrictFlag : Prop :=
  ∀ (s : State) (x y : Reg), s.run = .running →
    IsWord (0x8007 + x.val * 256 + y.val * 16) (.subn x y) ∧
    ∃ t, exec (.subn x y) s = .next t ∧
      HoldsResultAndFlag x ((256 + (s.reg y).toNat - (s.reg x).toNat) % 256) ((s.reg y).toNat > (s.reg x).toNat) s t

/-- SHR and SHL shift V[x] by one, VF is the bit shifted out, and V[y] plays no part (41_alu.md section 3). Derived: that
y is ignored is the spec's decision D33; pattern of SHL: log entry 14. -/
def Obligations.ShiftsMoveOneBitIntoTheFlag : Prop :=
  ∀ (s : State) (x y : Reg), s.run = .running →
    IsWord (0x8006 + x.val * 256 + y.val * 16) (.shr x y) ∧ IsWord (0x800E + x.val * 256 + y.val * 16) (.shl x y) ∧
    (∃ t, exec (.shr x y) s = .next t ∧ HoldsResultAndFlag x ((s.reg x).toNat / 2) ((s.reg x).toNat % 2 = 1) s t) ∧
    (∃ t, exec (.shl x y) s = .next t ∧ HoldsResultAndFlag x (2 * (s.reg x).toNat % 256) (128 ≤ (s.reg x).toNat) s t)

/-! ## The index register and memory -/

/-- LD I (42_index_memory.md R120).
Derived; pattern: log entry 14. -/
def Obligations.LdIWritesTheAddress : Prop :=
  ∀ (s : State) (nnn : Addr12), s.run = .running →
    IsWord (0xA000 + nnn.toNat) (.ldI nnn) ∧
    ∃ t, exec (.ldI nnn) s = .next t ∧ t.i.toNat = nnn.toNat ∧ OnlyChanges [.index] s t

/-- ADD I and LD F (42_index_memory.md section 1): modulo 65536 without a flag; five times the whole byte. Derived: the wrap
and the missing mask are the spec's decisions D3 and D23. -/
def Obligations.IndexArithmetic : Prop :=
  ∀ (s : State) (x : Reg), s.run = .running →
    IsWord (0xF01E + x.val * 256) (.addI x) ∧ IsWord (0xF029 + x.val * 256) (.ldF x) ∧
    (∃ t, exec (.addI x) s = .next t ∧ t.i.toNat = (s.i.toNat + (s.reg x).toNat) % 65536 ∧ OnlyChanges [.index] s t) ∧
    (∃ t, exec (.ldF x) s = .next t ∧ t.i.toNat = 5 * (s.reg x).toNat ∧ OnlyChanges [.index] s t)

/-- LD B (42_index_memory.md R123): the three decimal digits at I, I + 1, I + 2 and no other byte written; beyond 0xFFF it
raises MEM_RANGE with the lowest address out of range and changes nothing else. -/
def Obligations.LdBStoresTheDigits : Prop :=
  ∀ (s : State) (x : Reg), s.run = .running →
    IsWord (0xF033 + x.val * 256) (.ldB x) ∧
    (s.i.toNat + 2 > 0xFFF → Faults (.ldB x) s .memRange (max s.i.toNat 0x1000)) ∧
    (s.i.toNat + 2 ≤ 0xFFF →
      ∃ t, exec (.ldB x) s = .next t ∧ (t.byteAt s.i.toNat).toNat = (s.reg x).toNat / 100 ∧
        (t.byteAt (s.i.toNat + 1)).toNat = (s.reg x).toNat / 10 % 10 ∧
        (t.byteAt (s.i.toNat + 2)).toNat = (s.reg x).toNat % 10 ∧
        (∀ a, a < s.i.toNat ∨ s.i.toNat + 2 < a → t.byteAt a = s.byteAt a) ∧ OnlyChanges [.memory] s t)

/-- Fx55 stores V[0] to V[x] at I to I + x and no other byte, and leaves I; beyond 0xFFF it raises MEM_RANGE and stores
nothing (42_index_memory.md section 2). Derived: that I is unchanged is the spec's decision D24. -/
def Obligations.StRegsStoresTheBlock : Prop :=
  ∀ (s : State) (x : Reg), s.run = .running →
    IsWord (0xF055 + x.val * 256) (.stRegs x) ∧
    (s.i.toNat + x.val > 0xFFF → Faults (.stRegs x) s .memRange (max s.i.toNat 0x1000)) ∧
    (s.i.toNat + x.val ≤ 0xFFF →
      ∃ t, exec (.stRegs x) s = .next t ∧ (∀ r : Reg, r ≤ x → t.byteAt (s.i.toNat + r.val) = s.reg r) ∧
        (∀ a, a < s.i.toNat ∨ s.i.toNat + x.val < a → t.byteAt a = s.byteAt a) ∧ OnlyChanges [.memory] s t)

/-- Fx65 loads V[0] to V[x] from I to I + x, leaves the registers above and I; beyond 0xFFF it raises MEM_RANGE and loads
nothing (42_index_memory.md section 2). Derived: that I is unchanged is the spec's decision D24. -/
def Obligations.LdRegsLoadsTheBlock : Prop :=
  ∀ (s : State) (x : Reg), s.run = .running →
    IsWord (0xF065 + x.val * 256) (.ldRegs x) ∧
    (s.i.toNat + x.val > 0xFFF → Faults (.ldRegs x) s .memRange (max s.i.toNat 0x1000)) ∧
    (s.i.toNat + x.val ≤ 0xFFF →
      ∃ t, exec (.ldRegs x) s = .next t ∧ (∀ r : Reg, r ≤ x → t.reg r = s.byteAt (s.i.toNat + r.val)) ∧
        (∀ r : Reg, x < r → t.reg r = s.reg r) ∧ OnlyChanges [.regs] s t)

/-- A word that Fx55 stores at `pc` is the word the next Step executes: stores are seen by every later fetch (20_memory.md
section 4). Derived: this is the spec's decision D34. -/
def Obligations.StoredWordIsFetchedNext : Prop :=
  ∀ (s : State) (x j k : Reg) (w : Word),
    s.run = .running → s.boot = .loaded → s.schedule = [] → s.i.toNat + x.val ≤ 0xFFF → k ≤ x →
    k.val = j.val + 1 → s.pc.toNat = s.i.toNat + j.val → w.toNat = (s.reg j).toNat * 256 + (s.reg k).toNat →
    ∃ t, exec (.stRegs x) s = .next t ∧ step t = exec (decode w) (t.setPc (t.pc + 2))

/-! ## The screen -/

/-- CLS (43_display.md R130): every pixel is unset and nothing else changes, VF among it.
Derived; pattern: log entry 14. -/
def Obligations.ClsUnsetsEveryPixel : Prop :=
  ∀ s : State, s.run = .running →
    IsWord 0x00E0 .cls ∧
    ∃ t, exec .cls s = .next t ∧ (∀ x y, t.pixel x y = false) ∧ OnlyChanges [.screen] s t

/-- DRW (43_display.md sections on R131 to R134): exactly the pixels under a sprite bit of 1 are inverted, wrapping at both
edges; VF is 1 when some pixel went from set to unset and 0 else; n = 0 draws nothing and cannot fault; beyond 0xFFF it
raises MEM_RANGE and changes nothing else. Derived: the bit order is the spec's decision D18 (log entry 16), n = 0 its D32;
pattern: log entry 14. -/
def Obligations.DrwXorsTheSprite : Prop :=
  ∀ (s : State) (x y : Reg) (n : Nibble), s.run = .running →
    IsWord (0xD000 + x.val * 256 + y.val * 16 + n.toNat) (.drw x y n) ∧
    (n ≠ 0 → s.i.toNat + n.toNat - 1 > 0xFFF → Faults (.drw x y n) s .memRange (max s.i.toNat 0x1000)) ∧
    (n = 0 ∨ s.i.toNat + n.toNat - 1 ≤ 0xFFF →
      ∃ t, exec (.drw x y n) s = .next t ∧
        (∀ px py, px < 64 → py < 32 → (t.pixel px py ≠ s.pixel px py ↔ Lit s x y n.toNat px py)) ∧
        ((t.reg VF).toNat = 1 ↔ ∃ px py, px < 64 ∧ py < 32 ∧ s.pixel px py = true ∧ t.pixel px py = false) ∧
        (t.reg VF).toNat ≤ 1 ∧ (∀ r : Reg, r ≠ VF → t.reg r = s.reg r) ∧ OnlyChanges [.regs, .screen] s t)

/-- Drawing the same sprite at the same coordinates twice restores the screen, and the second draw's flag is 1 exactly when
the first set a pixel (43_display.md R133; 95_test_vectors.md S5). The coordinates are the same when the first draw's flag
has not changed them. Derived: two instructions are run one after the other. -/
def Obligations.DrawingTwiceRestoresTheScreen : Prop :=
  ∀ (s t : State) (x y : Reg) (n : Nibble), s.run = .running →
    (n = 0 ∨ s.i.toNat + n.toNat - 1 ≤ 0xFFF) →
    exec (.drw x y n) s = .next t → t.reg x = s.reg x → t.reg y = s.reg y →
    ∃ u, exec (.drw x y n) t = .next u ∧ (∀ px py, u.pixel px py = s.pixel px py) ∧
      ((u.reg VF).toNat = 1 ↔ ∃ px py, px < 64 ∧ py < 32 ∧ s.pixel px py = false ∧ t.pixel px py = true)

/-! ## The keyboard -/

/-- SKP and SKNP test one key bit; a key number above 15 raises KEY_INDEX and changes nothing else (44_keyboard.md section
1). Derived: the fault is the spec's decision D16; pattern: log entry 14. -/
def Obligations.KeyTestsSkip : Prop :=
  ∀ (s : State) (x : Reg), s.run = .running →
    IsWord (0xE09E + x.val * 256) (.skp x) ∧ IsWord (0xE0A1 + x.val * 256) (.sknp x) ∧
    ((s.reg x).toNat > 15 →
      Faults (.skp x) s .keyIndex (s.reg x).toNat ∧ Faults (.sknp x) s .keyIndex (s.reg x).toNat) ∧
    (∀ k : Fin 16, (s.reg x).toNat = k.val →
      (∃ t, exec (.skp x) s = .next t ∧ SkipsWhen (s.keys.get k = true) s t) ∧
      (∃ t, exec (.sknp x) s = .next t ∧ SkipsWhen (s.keys.get k = false) s t))

/-- LD Vx, K, the first of the two transitions of 44_keyboard.md section 2: RUN becomes AwaitingKey(x) and nothing else
changes. Derived: the second transition is in MappedKeyPressEndsTheWait. -/
def Obligations.KeyWaitSuspendsTheEngine : Prop :=
  ∀ (s : State) (x : Reg), s.run = .running →
    IsWord (0xF00A + x.val * 256) (.ldVxK x) ∧
    ∃ t, exec (.ldVxK x) s = .next t ∧ t.run = .awaitingKey x ∧ OnlyChanges [.run] s t

/-- Only a mapped KeyPress or Reset leaves AwaitingKey; until then every transition keeps all but the timers and the key bits
(44_keyboard.md section 2, 60_exceptions.md section 4). Derived: events during the wait are the spec's decisions D15, D26. -/
def Obligations.OnlyAKeyOrResetEndsTheWait : Prop :=
  ∀ (s t : State) (x : Reg), s.run = .awaitingKey x → step s = .next t →
    (t.run = .awaitingKey x ∧ Keeps [.delay, .sound, .keys] s t) ∨
    (∃ m more, s.schedule = .keyPress (some m) :: more) ∨ (∃ more, s.schedule = .reset :: more)

/-! ## Timers and the random byte -/

/-- The timer transfers (45_timers_random.md). Derived: which pattern moves what is the spec's decision D13 (log entry
17). -/
def Obligations.TimerTransfers : Prop :=
  ∀ (s : State) (x : Reg), s.run = .running →
    IsWord (0xF007 + x.val * 256) (.ldVxDT x) ∧ IsWord (0xF015 + x.val * 256) (.ldDTVx x) ∧
    IsWord (0xF018 + x.val * 256) (.ldSTVx x) ∧
    (∃ t, exec (.ldVxDT x) s = .next t ∧ HoldsResult x s.dt.toNat s t) ∧
    (∃ t, exec (.ldDTVx x) s = .next t ∧ t.dt = s.reg x ∧ OnlyChanges [.delay] s t) ∧
    (∃ t, exec (.ldSTVx x) s = .next t ∧ t.st = s.reg x ∧ OnlyChanges [.sound] s t)

/-- RND (45_timers_random.md): V[x] becomes the next free byte and kk, whatever that byte is; no bit that kk lacks is set;
the next draw is another one. Derived: the draw is the spec's decision D19, its form the model's (log entry 1); pattern: log
entry 14. -/
def Obligations.RndMasksAFreeByte : Prop :=
  ∀ (s : State) (x : Reg) (kk : Byte), s.run = .running →
    IsWord (0xC000 + x.val * 256 + kk.toNat) (.rnd x kk) ∧
    ∃ t, exec (.rnd x kk) s = .next t ∧ (t.reg x).toNat = (Config.drawByte s.draws).toNat &&& kk.toNat ∧
      (∀ j, kk.getLsbD j = false → (t.reg x).getLsbD j = false) ∧ t.draws = s.draws + 1 ∧
      (∀ r : Reg, r ≠ x → t.reg r = s.reg r) ∧ OnlyChanges [.regs, .draws] s t

/-! ## The whole machine -/

/-- Every transition keeps the invariant: memory in canonical form, SP at most 16, `pc` at most 0x10FE, return addresses
at most 0x1000, a true fault record, and before the Load nothing changed but key bits. Derived: the clauses combine
10_state.md R26, 92_eei_decisions.md D4, 60_exceptions.md R160 and 70_reset_and_hazards.md R193 with the model's own: the
canonical form of memory (log entry 5), that events may come before the Load, and that a Load turned away leaves the boot
record at afterReset (both log entry 3). -/
def Obligations.EveryStepKeepsTheInvariant : Prop :=
  ∀ s t : State, Safety.Inv s → step s = .next t → Safety.Inv t

/-- The invariant holds right after reset, for every GLYPH_ROM. -/
def Obligations.TheInvariantHoldsAtReset : Prop :=
  Safety.Inv State.reset ∧ ∀ rom, Safety.Inv (State.resetWith rom)

/-- Only Reset leaves Faulted: no other transition that answers a next state changes anything but the schedule
(60_exceptions.md section 2). Derived: the terminal run state is the spec's decision D8. -/
def Obligations.OnlyResetLeavesFaulted : Prop :=
  ∀ (s t : State) (c : Cause) (n : Nat), s.run = .faulted c n → step s = .next t →
    (∃ more, s.schedule = .reset :: more) ∨ (t.run = .faulted c n ∧ Keeps [] s t ∧ t.boot = s.boot)

/-- Faults are precise: an instruction that raises a fault changes nothing but RUN (60_exceptions.md section 2). Derived:
this is the spec's decision D7. -/
def Obligations.FaultsArePrecise : Prop :=
  ∀ (i : Instr) (s t : State) (c : Cause) (n : Nat), s.run = .running → exec i s = .next t → t.run = .faulted c n →
    t = s.setRun (.faulted c n)

/-- Which instruction raises which fault, when, and with which info; no other instruction can fault (60_exceptions.md section
1). Derived: KEY_INDEX and the info values are the spec's decisions D16 and D9. -/
def Obligations.OnlyTheListedFaultsOccur : Prop :=
  ∀ (i : Instr) (s t : State) (c : Cause) (n : Nat), s.run = .running → exec i s = .next t → t.run = .faulted c n →
    (c = .stackOverflow ∧ s.sp = 16 ∧ n = s.pc.toNat ∧ ∃ nnn, i = .call nnn) ∨
    (c = .stackUnderflow ∧ s.sp = 0 ∧ n = 0 ∧ i = .ret) ∨
    (c = .memRange ∧ n = max s.i.toNat 0x1000 ∧
      ((∃ x y h, i = .drw x y h ∧ h ≠ 0 ∧ s.i.toNat + h.toNat - 1 > 0xFFF) ∨ (∃ x, i = .ldB x ∧ s.i.toNat + 2 > 0xFFF) ∨
        (∃ x, (i = .stRegs x ∨ i = .ldRegs x) ∧ s.i.toNat + x.val > 0xFFF))) ∨
    (c = .keyIndex ∧ ∃ x, (i = .skp x ∨ i = .sknp x) ∧ (s.reg x).toNat > 15 ∧ n = (s.reg x).toNat)

/-- Each piece of state is written only by the instructions the spec names for it: the stack by CALL and RET, I by Annn, Fx1E
and Fx29, DT by Fx15, ST by Fx18, the key bits by none, the screen by 00E0 and Dxyn, memory by Fx33 and Fx55; RUN by Fx0A and
by faults (10_state.md sections 2 to 5, 20_memory.md section 2). -/
def Obligations.StateIsWrittenOnlyAsNamed : Prop :=
  ∀ (i : Instr) (s t : State), exec i s = .next t →
    OnlyChanges (.run :: writes i) s t ∧
    (t.run = s.run ∨ (∃ x, i = .ldVxK x ∧ t.run = .awaitingKey x) ∨ ∃ c n, t.run = .faulted c n)

/-- A register is written only when the instruction names it as its destination, VF also by the six flag-writing
instructions, which leave 0 or 1 in it (10_state.md section 2). -/
def Obligations.RegistersAreWrittenOnlyAsNamed : Prop :=
  ∀ (i : Instr) (s t : State), s.run = .running → exec i s = .next t →
    (∀ r : Reg, ¬ namesDestination r i → (r = VF → writesFlag i = false) → t.reg r = s.reg r) ∧
    (writesFlag i = true → t.run = .running → t.reg VF = 0 ∨ t.reg VF = 1)

/-- No instruction reads the sound timer: with another ST it ends the same, ST apart (10_state.md section 4). -/
def Obligations.NoInstructionReadsTheSoundTimer : Prop :=
  ∀ (i : Instr) (s : State) (b : Byte),
    (∀ x, exec (.ldSTVx x) (s.setST b) = exec (.ldSTVx x) s) ∧
    ((∀ x, i ≠ .ldSTVx x) → exec i (s.setST b) = mapNext (fun t => t.setST b) (exec i s))

/-- No instruction writes a key bit, and only Ex9E and ExA1 read one: with another key state every other instruction ends the
same, that bit apart, Fx0A among them (10_state.md section 5, 44_keyboard.md section 2). -/
def Obligations.OnlyTheKeyTestsReadTheKeys : Prop :=
  ∀ (i : Instr) (s : State),
    (∀ t, exec i s = .next t → ∀ k : Fin 16, t.keys.get k = s.keys.get k) ∧
    ((∀ x, i ≠ .skp x ∧ i ≠ .sknp x) → ∀ (k : Reg) (down : Bool),
      exec i (s.setKey k down) = mapNext (fun t => t.setKey k down) (exec i s))

/-- Execute answers a next state for every instruction in every state with a legal SP: nothing is left without a meaning
(00_scope.md section 4, 30_encoding.md section 3). -/
def Obligations.ExecuteIsTotal : Prop :=
  ∀ (i : Instr) (s : State), s.run = .running → s.sp.toNat ≤ 16 → ∃ t, exec i s = .next t

/-- From a jump to itself no Step changes any state (70_reset_and_hazards.md section 4). Derived: the convention for the end
of a run is the spec's decision D29 (log entry 12). -/
def Obligations.SelfJumpIsIdle : Prop :=
  ∀ s : State, s.boot = .loaded → s.schedule = [] → Safety.selfJump s = true → step s = .next s
end

