-- ==== Sys2Proof/Laws/Encoding.lean ====
section
/-!
SUPPORT. The fields of a word as numbers (30_encoding.md R61), the word of each format as a number (R62), and the fields of
each format's word.
-/

namespace Sys2Proof

/-! ## Fields as numbers -/

theorem fieldOp_toNat (w : Word) : (fieldOp w).toNat = w.toNat / 4096 := by
  have := w.isLt
  simp [fieldOp, Nat.shiftRight_eq_div_pow]
  omega

theorem fieldX_val (w : Word) : (fieldX w).val = w.toNat / 256 % 16 := by
  simp [fieldX, Nat.shiftRight_eq_div_pow]

theorem fieldY_val (w : Word) : (fieldY w).val = w.toNat / 16 % 16 := by
  simp [fieldY, Nat.shiftRight_eq_div_pow]

theorem fieldN_toNat (w : Word) : (fieldN w).toNat = w.toNat % 16 := by
  simp [fieldN]

theorem fieldKK_toNat (w : Word) : (fieldKK w).toNat = w.toNat % 256 := by
  simp [fieldKK]

theorem fieldNNN_toNat (w : Word) : (fieldNNN w).toNat = w.toNat % 4096 := by
  simp [fieldNNN]

/-! ## Words as numbers -/

theorem append_toNat {m n : Nat} (a : BitVec m) (b : BitVec n) : (a ++ b).toNat = a.toNat * 2 ^ n + b.toNat := by
  rw [BitVec.toNat_append, Nat.shiftLeft_eq, Nat.mul_comm, ← Nat.two_pow_add_eq_or_of_lt b.isLt]

theorem formatA_toNat (op : Nibble) (nnn : Addr12) : (formatA op nnn).toNat = op.toNat * 4096 + nnn.toNat :=
  append_toNat op nnn

theorem formatXK_toNat (op : Nibble) (x : Reg) (kk : Byte) :
    (formatXK op x kk).toNat = op.toNat * 4096 + x.val * 256 + kk.toNat := by
  simp only [formatXK, append_toNat, BitVec.toNat_ofFin]
  omega

theorem formatXY_toNat (op : Nibble) (x y : Reg) (n : Nibble) :
    (formatXY op x y n).toNat = op.toNat * 4096 + x.val * 256 + y.val * 16 + n.toNat := by
  simp only [formatXY, append_toNat, BitVec.toNat_ofFin]
  omega

/-- The word fetched from two bytes is big-endian (20_memory.md R45). -/
theorem wordOfBytes_toNat (hi lo : Byte) : (wordOfBytes hi lo).toNat = hi.toNat * 256 + lo.toNat :=
  append_toNat hi lo

/-- The two bytes of a word make the word. -/
theorem wordOfBytes_bytesOfWord (w : Word) : wordOfBytes (w.extractLsb' 8 8) (w.extractLsb' 0 8) = w := by
  have := w.isLt
  apply BitVec.eq_of_toNat_eq
  rw [wordOfBytes_toNat]
  simp [Nat.shiftRight_eq_div_pow]
  omega

/-! ## Words bit by bit -/

theorem formatA_getLsbD (op : Nibble) (nnn : Addr12) (j : Nat) :
    (formatA op nnn).getLsbD j = if j < 12 then nnn.getLsbD j else op.getLsbD (j - 12) :=
  BitVec.getLsbD_append

theorem formatXK_getLsbD (op : Nibble) (x : Reg) (kk : Byte) (j : Nat) :
    (formatXK op x kk).getLsbD j =
      if j < 8 then kk.getLsbD j else if j - 8 < 4 then x.val.testBit (j - 8) else op.getLsbD (j - 8 - 4) := by
  unfold formatXK
  rw [BitVec.getLsbD_append, BitVec.getLsbD_append]
  rfl

theorem formatXY_getLsbD (op : Nibble) (x y : Reg) (n : Nibble) (j : Nat) :
    (formatXY op x y n).getLsbD j =
      if j < 4 then n.getLsbD j
      else if j - 4 < 4 then y.val.testBit (j - 4)
      else if j - 4 - 4 < 4 then x.val.testBit (j - 4 - 4) else op.getLsbD (j - 4 - 4 - 4) := by
  unfold formatXY
  rw [BitVec.getLsbD_append, BitVec.getLsbD_append, BitVec.getLsbD_append]
  rfl

/-! ## The fields of each format -/

section
variable (op n : Nibble) (nnn : Addr12) (x y : Reg) (kk : Byte)

@[simp] theorem fieldOp_formatA : fieldOp (formatA op nnn) = op := by
  apply BitVec.eq_of_toNat_eq
  have := nnn.isLt
  rw [fieldOp_toNat, formatA_toNat]
  omega

@[simp] theorem fieldNNN_formatA : fieldNNN (formatA op nnn) = nnn := by
  apply BitVec.eq_of_toNat_eq
  have := nnn.isLt
  rw [fieldNNN_toNat, formatA_toNat]
  omega

@[simp] theorem fieldOp_formatXK : fieldOp (formatXK op x kk) = op := by
  apply BitVec.eq_of_toNat_eq
  have := kk.isLt
  rw [fieldOp_toNat, formatXK_toNat]
  omega

@[simp] theorem fieldX_formatXK : fieldX (formatXK op x kk) = x := by
  apply Fin.ext
  have := kk.isLt
  rw [fieldX_val, formatXK_toNat]
  omega

@[simp] theorem fieldKK_formatXK : fieldKK (formatXK op x kk) = kk := by
  apply BitVec.eq_of_toNat_eq
  have := kk.isLt
  rw [fieldKK_toNat, formatXK_toNat]
  omega

@[simp] theorem fieldOp_formatXY : fieldOp (formatXY op x y n) = op := by
  apply BitVec.eq_of_toNat_eq
  have := n.isLt
  rw [fieldOp_toNat, formatXY_toNat]
  omega

@[simp] theorem fieldX_formatXY : fieldX (formatXY op x y n) = x := by
  apply Fin.ext
  have := n.isLt
  rw [fieldX_val, formatXY_toNat]
  omega

@[simp] theorem fieldY_formatXY : fieldY (formatXY op x y n) = y := by
  apply Fin.ext
  have := n.isLt
  rw [fieldY_val, formatXY_toNat]
  omega

@[simp] theorem fieldN_formatXY : fieldN (formatXY op x y n) = n := by
  apply BitVec.eq_of_toNat_eq
  have := n.isLt
  rw [fieldN_toNat, formatXY_toNat]
  omega

end

end Sys2Proof
end

