-- ==== Sys2Proof/Laws/State.lean ====
section
/-!
SUPPORT. What each named update of the state does to each field: one lemma per field per update, so that no proof unfolds a
record update. Registers, bytes and pixels are read through their accessors.
-/

namespace Sys2Proof.Machine

variable (s : State)

/-! ## raise -/

@[simp] theorem State.raise_v (c : Cause) (n : Nat) : (s.raise c n).v = s.v := rfl
@[simp] theorem State.raise_pc (c : Cause) (n : Nat) : (s.raise c n).pc = s.pc := rfl
@[simp] theorem State.raise_i (c : Cause) (n : Nat) : (s.raise c n).i = s.i := rfl
@[simp] theorem State.raise_sp (c : Cause) (n : Nat) : (s.raise c n).sp = s.sp := rfl
@[simp] theorem State.raise_stack (c : Cause) (n : Nat) : (s.raise c n).stack = s.stack := rfl
@[simp] theorem State.raise_dt (c : Cause) (n : Nat) : (s.raise c n).dt = s.dt := rfl
@[simp] theorem State.raise_st (c : Cause) (n : Nat) : (s.raise c n).st = s.st := rfl
@[simp] theorem State.raise_keys (c : Cause) (n : Nat) : (s.raise c n).keys = s.keys := rfl
@[simp] theorem State.raise_fb (c : Cause) (n : Nat) : (s.raise c n).fb = s.fb := rfl
@[simp] theorem State.raise_mem (c : Cause) (n : Nat) : (s.raise c n).mem = s.mem := rfl
@[simp] theorem State.raise_run (c : Cause) (n : Nat) : (s.raise c n).run = .faulted c n := rfl
@[simp] theorem State.raise_boot (c : Cause) (n : Nat) : (s.raise c n).boot = s.boot := rfl
@[simp] theorem State.raise_glyphRom (c : Cause) (n : Nat) : (s.raise c n).glyphRom = s.glyphRom := rfl
@[simp] theorem State.raise_draws (c : Cause) (n : Nat) : (s.raise c n).draws = s.draws := rfl
@[simp] theorem State.raise_schedule (c : Cause) (n : Nat) : (s.raise c n).schedule = s.schedule := rfl
@[simp] theorem State.raise_reg (c : Cause) (n : Nat) (y : Reg) : (s.raise c n).reg y = s.reg y := rfl
@[simp] theorem State.raise_byteAt (c : Cause) (n : Nat) (k : Nat) : (s.raise c n).byteAt k = s.byteAt k := rfl
@[simp] theorem State.raise_pixel (c : Cause) (n : Nat) (k l : Nat) : (s.raise c n).pixel k l = s.pixel k l := rfl

/-! ## setReg -/

@[simp] theorem State.setReg_v (x : Reg) (b : Byte) : (s.setReg x b).v = s.v.set x.val b x.isLt := rfl
@[simp] theorem State.setReg_pc (x : Reg) (b : Byte) : (s.setReg x b).pc = s.pc := rfl
@[simp] theorem State.setReg_i (x : Reg) (b : Byte) : (s.setReg x b).i = s.i := rfl
@[simp] theorem State.setReg_sp (x : Reg) (b : Byte) : (s.setReg x b).sp = s.sp := rfl
@[simp] theorem State.setReg_stack (x : Reg) (b : Byte) : (s.setReg x b).stack = s.stack := rfl
@[simp] theorem State.setReg_dt (x : Reg) (b : Byte) : (s.setReg x b).dt = s.dt := rfl
@[simp] theorem State.setReg_st (x : Reg) (b : Byte) : (s.setReg x b).st = s.st := rfl
@[simp] theorem State.setReg_keys (x : Reg) (b : Byte) : (s.setReg x b).keys = s.keys := rfl
@[simp] theorem State.setReg_fb (x : Reg) (b : Byte) : (s.setReg x b).fb = s.fb := rfl
@[simp] theorem State.setReg_mem (x : Reg) (b : Byte) : (s.setReg x b).mem = s.mem := rfl
@[simp] theorem State.setReg_run (x : Reg) (b : Byte) : (s.setReg x b).run = s.run := rfl
@[simp] theorem State.setReg_boot (x : Reg) (b : Byte) : (s.setReg x b).boot = s.boot := rfl
@[simp] theorem State.setReg_glyphRom (x : Reg) (b : Byte) : (s.setReg x b).glyphRom = s.glyphRom := rfl
@[simp] theorem State.setReg_draws (x : Reg) (b : Byte) : (s.setReg x b).draws = s.draws := rfl
@[simp] theorem State.setReg_schedule (x : Reg) (b : Byte) : (s.setReg x b).schedule = s.schedule := rfl
@[simp] theorem State.setReg_byteAt (x : Reg) (b : Byte) (k : Nat) : (s.setReg x b).byteAt k = s.byteAt k := rfl
@[simp] theorem State.setReg_pixel (x : Reg) (b : Byte) (k l : Nat) : (s.setReg x b).pixel k l = s.pixel k l := rfl

/-! ## loadRegs -/

@[simp] theorem State.loadRegs_v (bs : List Byte) : (s.loadRegs bs).v = setRegsFrom s.v 0 bs := rfl
@[simp] theorem State.loadRegs_pc (bs : List Byte) : (s.loadRegs bs).pc = s.pc := rfl
@[simp] theorem State.loadRegs_i (bs : List Byte) : (s.loadRegs bs).i = s.i := rfl
@[simp] theorem State.loadRegs_sp (bs : List Byte) : (s.loadRegs bs).sp = s.sp := rfl
@[simp] theorem State.loadRegs_stack (bs : List Byte) : (s.loadRegs bs).stack = s.stack := rfl
@[simp] theorem State.loadRegs_dt (bs : List Byte) : (s.loadRegs bs).dt = s.dt := rfl
@[simp] theorem State.loadRegs_st (bs : List Byte) : (s.loadRegs bs).st = s.st := rfl
@[simp] theorem State.loadRegs_keys (bs : List Byte) : (s.loadRegs bs).keys = s.keys := rfl
@[simp] theorem State.loadRegs_fb (bs : List Byte) : (s.loadRegs bs).fb = s.fb := rfl
@[simp] theorem State.loadRegs_mem (bs : List Byte) : (s.loadRegs bs).mem = s.mem := rfl
@[simp] theorem State.loadRegs_run (bs : List Byte) : (s.loadRegs bs).run = s.run := rfl
@[simp] theorem State.loadRegs_boot (bs : List Byte) : (s.loadRegs bs).boot = s.boot := rfl
@[simp] theorem State.loadRegs_glyphRom (bs : List Byte) : (s.loadRegs bs).glyphRom = s.glyphRom := rfl
@[simp] theorem State.loadRegs_draws (bs : List Byte) : (s.loadRegs bs).draws = s.draws := rfl
@[simp] theorem State.loadRegs_schedule (bs : List Byte) : (s.loadRegs bs).schedule = s.schedule := rfl
@[simp] theorem State.loadRegs_byteAt (bs : List Byte) (k : Nat) : (s.loadRegs bs).byteAt k = s.byteAt k := rfl
@[simp] theorem State.loadRegs_pixel (bs : List Byte) (k l : Nat) : (s.loadRegs bs).pixel k l = s.pixel k l := rfl

/-! ## setPc -/

@[simp] theorem State.setPc_v (a : Word) : (s.setPc a).v = s.v := rfl
@[simp] theorem State.setPc_pc (a : Word) : (s.setPc a).pc = a := rfl
@[simp] theorem State.setPc_i (a : Word) : (s.setPc a).i = s.i := rfl
@[simp] theorem State.setPc_sp (a : Word) : (s.setPc a).sp = s.sp := rfl
@[simp] theorem State.setPc_stack (a : Word) : (s.setPc a).stack = s.stack := rfl
@[simp] theorem State.setPc_dt (a : Word) : (s.setPc a).dt = s.dt := rfl
@[simp] theorem State.setPc_st (a : Word) : (s.setPc a).st = s.st := rfl
@[simp] theorem State.setPc_keys (a : Word) : (s.setPc a).keys = s.keys := rfl
@[simp] theorem State.setPc_fb (a : Word) : (s.setPc a).fb = s.fb := rfl
@[simp] theorem State.setPc_mem (a : Word) : (s.setPc a).mem = s.mem := rfl
@[simp] theorem State.setPc_run (a : Word) : (s.setPc a).run = s.run := rfl
@[simp] theorem State.setPc_boot (a : Word) : (s.setPc a).boot = s.boot := rfl
@[simp] theorem State.setPc_glyphRom (a : Word) : (s.setPc a).glyphRom = s.glyphRom := rfl
@[simp] theorem State.setPc_draws (a : Word) : (s.setPc a).draws = s.draws := rfl
@[simp] theorem State.setPc_schedule (a : Word) : (s.setPc a).schedule = s.schedule := rfl
@[simp] theorem State.setPc_reg (a : Word) (y : Reg) : (s.setPc a).reg y = s.reg y := rfl
@[simp] theorem State.setPc_byteAt (a : Word) (k : Nat) : (s.setPc a).byteAt k = s.byteAt k := rfl
@[simp] theorem State.setPc_pixel (a : Word) (k l : Nat) : (s.setPc a).pixel k l = s.pixel k l := rfl

/-! ## advance -/

@[simp] theorem State.advance_v : (s.advance).v = s.v := rfl
@[simp] theorem State.advance_pc : (s.advance).pc = s.pc + 2 := rfl
@[simp] theorem State.advance_i : (s.advance).i = s.i := rfl
@[simp] theorem State.advance_sp : (s.advance).sp = s.sp := rfl
@[simp] theorem State.advance_stack : (s.advance).stack = s.stack := rfl
@[simp] theorem State.advance_dt : (s.advance).dt = s.dt := rfl
@[simp] theorem State.advance_st : (s.advance).st = s.st := rfl
@[simp] theorem State.advance_keys : (s.advance).keys = s.keys := rfl
@[simp] theorem State.advance_fb : (s.advance).fb = s.fb := rfl
@[simp] theorem State.advance_mem : (s.advance).mem = s.mem := rfl
@[simp] theorem State.advance_run : (s.advance).run = s.run := rfl
@[simp] theorem State.advance_boot : (s.advance).boot = s.boot := rfl
@[simp] theorem State.advance_glyphRom : (s.advance).glyphRom = s.glyphRom := rfl
@[simp] theorem State.advance_draws : (s.advance).draws = s.draws := rfl
@[simp] theorem State.advance_schedule : (s.advance).schedule = s.schedule := rfl
@[simp] theorem State.advance_reg (y : Reg) : (s.advance).reg y = s.reg y := rfl
@[simp] theorem State.advance_byteAt (k : Nat) : (s.advance).byteAt k = s.byteAt k := rfl
@[simp] theorem State.advance_pixel (k l : Nat) : (s.advance).pixel k l = s.pixel k l := rfl

/-! ## setI -/

@[simp] theorem State.setI_v (a : Word) : (s.setI a).v = s.v := rfl
@[simp] theorem State.setI_pc (a : Word) : (s.setI a).pc = s.pc := rfl
@[simp] theorem State.setI_i (a : Word) : (s.setI a).i = a := rfl
@[simp] theorem State.setI_sp (a : Word) : (s.setI a).sp = s.sp := rfl
@[simp] theorem State.setI_stack (a : Word) : (s.setI a).stack = s.stack := rfl
@[simp] theorem State.setI_dt (a : Word) : (s.setI a).dt = s.dt := rfl
@[simp] theorem State.setI_st (a : Word) : (s.setI a).st = s.st := rfl
@[simp] theorem State.setI_keys (a : Word) : (s.setI a).keys = s.keys := rfl
@[simp] theorem State.setI_fb (a : Word) : (s.setI a).fb = s.fb := rfl
@[simp] theorem State.setI_mem (a : Word) : (s.setI a).mem = s.mem := rfl
@[simp] theorem State.setI_run (a : Word) : (s.setI a).run = s.run := rfl
@[simp] theorem State.setI_boot (a : Word) : (s.setI a).boot = s.boot := rfl
@[simp] theorem State.setI_glyphRom (a : Word) : (s.setI a).glyphRom = s.glyphRom := rfl
@[simp] theorem State.setI_draws (a : Word) : (s.setI a).draws = s.draws := rfl
@[simp] theorem State.setI_schedule (a : Word) : (s.setI a).schedule = s.schedule := rfl
@[simp] theorem State.setI_reg (a : Word) (y : Reg) : (s.setI a).reg y = s.reg y := rfl
@[simp] theorem State.setI_byteAt (a : Word) (k : Nat) : (s.setI a).byteAt k = s.byteAt k := rfl
@[simp] theorem State.setI_pixel (a : Word) (k l : Nat) : (s.setI a).pixel k l = s.pixel k l := rfl

/-! ## setDT -/

@[simp] theorem State.setDT_v (b : Byte) : (s.setDT b).v = s.v := rfl
@[simp] theorem State.setDT_pc (b : Byte) : (s.setDT b).pc = s.pc := rfl
@[simp] theorem State.setDT_i (b : Byte) : (s.setDT b).i = s.i := rfl
@[simp] theorem State.setDT_sp (b : Byte) : (s.setDT b).sp = s.sp := rfl
@[simp] theorem State.setDT_stack (b : Byte) : (s.setDT b).stack = s.stack := rfl
@[simp] theorem State.setDT_dt (b : Byte) : (s.setDT b).dt = b := rfl
@[simp] theorem State.setDT_st (b : Byte) : (s.setDT b).st = s.st := rfl
@[simp] theorem State.setDT_keys (b : Byte) : (s.setDT b).keys = s.keys := rfl
@[simp] theorem State.setDT_fb (b : Byte) : (s.setDT b).fb = s.fb := rfl
@[simp] theorem State.setDT_mem (b : Byte) : (s.setDT b).mem = s.mem := rfl
@[simp] theorem State.setDT_run (b : Byte) : (s.setDT b).run = s.run := rfl
@[simp] theorem State.setDT_boot (b : Byte) : (s.setDT b).boot = s.boot := rfl
@[simp] theorem State.setDT_glyphRom (b : Byte) : (s.setDT b).glyphRom = s.glyphRom := rfl
@[simp] theorem State.setDT_draws (b : Byte) : (s.setDT b).draws = s.draws := rfl
@[simp] theorem State.setDT_schedule (b : Byte) : (s.setDT b).schedule = s.schedule := rfl
@[simp] theorem State.setDT_reg (b : Byte) (y : Reg) : (s.setDT b).reg y = s.reg y := rfl
@[simp] theorem State.setDT_byteAt (b : Byte) (k : Nat) : (s.setDT b).byteAt k = s.byteAt k := rfl
@[simp] theorem State.setDT_pixel (b : Byte) (k l : Nat) : (s.setDT b).pixel k l = s.pixel k l := rfl

/-! ## setST -/

@[simp] theorem State.setST_v (b : Byte) : (s.setST b).v = s.v := rfl
@[simp] theorem State.setST_pc (b : Byte) : (s.setST b).pc = s.pc := rfl
@[simp] theorem State.setST_i (b : Byte) : (s.setST b).i = s.i := rfl
@[simp] theorem State.setST_sp (b : Byte) : (s.setST b).sp = s.sp := rfl
@[simp] theorem State.setST_stack (b : Byte) : (s.setST b).stack = s.stack := rfl
@[simp] theorem State.setST_dt (b : Byte) : (s.setST b).dt = s.dt := rfl
@[simp] theorem State.setST_st (b : Byte) : (s.setST b).st = b := rfl
@[simp] theorem State.setST_keys (b : Byte) : (s.setST b).keys = s.keys := rfl
@[simp] theorem State.setST_fb (b : Byte) : (s.setST b).fb = s.fb := rfl
@[simp] theorem State.setST_mem (b : Byte) : (s.setST b).mem = s.mem := rfl
@[simp] theorem State.setST_run (b : Byte) : (s.setST b).run = s.run := rfl
@[simp] theorem State.setST_boot (b : Byte) : (s.setST b).boot = s.boot := rfl
@[simp] theorem State.setST_glyphRom (b : Byte) : (s.setST b).glyphRom = s.glyphRom := rfl
@[simp] theorem State.setST_draws (b : Byte) : (s.setST b).draws = s.draws := rfl
@[simp] theorem State.setST_schedule (b : Byte) : (s.setST b).schedule = s.schedule := rfl
@[simp] theorem State.setST_reg (b : Byte) (y : Reg) : (s.setST b).reg y = s.reg y := rfl
@[simp] theorem State.setST_byteAt (b : Byte) (k : Nat) : (s.setST b).byteAt k = s.byteAt k := rfl
@[simp] theorem State.setST_pixel (b : Byte) (k l : Nat) : (s.setST b).pixel k l = s.pixel k l := rfl

/-! ## setRun -/

@[simp] theorem State.setRun_v (r : Run) : (s.setRun r).v = s.v := rfl
@[simp] theorem State.setRun_pc (r : Run) : (s.setRun r).pc = s.pc := rfl
@[simp] theorem State.setRun_i (r : Run) : (s.setRun r).i = s.i := rfl
@[simp] theorem State.setRun_sp (r : Run) : (s.setRun r).sp = s.sp := rfl
@[simp] theorem State.setRun_stack (r : Run) : (s.setRun r).stack = s.stack := rfl
@[simp] theorem State.setRun_dt (r : Run) : (s.setRun r).dt = s.dt := rfl
@[simp] theorem State.setRun_st (r : Run) : (s.setRun r).st = s.st := rfl
@[simp] theorem State.setRun_keys (r : Run) : (s.setRun r).keys = s.keys := rfl
@[simp] theorem State.setRun_fb (r : Run) : (s.setRun r).fb = s.fb := rfl
@[simp] theorem State.setRun_mem (r : Run) : (s.setRun r).mem = s.mem := rfl
@[simp] theorem State.setRun_run (r : Run) : (s.setRun r).run = r := rfl
@[simp] theorem State.setRun_boot (r : Run) : (s.setRun r).boot = s.boot := rfl
@[simp] theorem State.setRun_glyphRom (r : Run) : (s.setRun r).glyphRom = s.glyphRom := rfl
@[simp] theorem State.setRun_draws (r : Run) : (s.setRun r).draws = s.draws := rfl
@[simp] theorem State.setRun_schedule (r : Run) : (s.setRun r).schedule = s.schedule := rfl
@[simp] theorem State.setRun_reg (r : Run) (y : Reg) : (s.setRun r).reg y = s.reg y := rfl
@[simp] theorem State.setRun_byteAt (r : Run) (k : Nat) : (s.setRun r).byteAt k = s.byteAt k := rfl
@[simp] theorem State.setRun_pixel (r : Run) (k l : Nat) : (s.setRun r).pixel k l = s.pixel k l := rfl

/-! ## setByte -/

@[simp] theorem State.setByte_v (a : Nat) (b : Byte) : (s.setByte a b).v = s.v := rfl
@[simp] theorem State.setByte_pc (a : Nat) (b : Byte) : (s.setByte a b).pc = s.pc := rfl
@[simp] theorem State.setByte_i (a : Nat) (b : Byte) : (s.setByte a b).i = s.i := rfl
@[simp] theorem State.setByte_sp (a : Nat) (b : Byte) : (s.setByte a b).sp = s.sp := rfl
@[simp] theorem State.setByte_stack (a : Nat) (b : Byte) : (s.setByte a b).stack = s.stack := rfl
@[simp] theorem State.setByte_dt (a : Nat) (b : Byte) : (s.setByte a b).dt = s.dt := rfl
@[simp] theorem State.setByte_st (a : Nat) (b : Byte) : (s.setByte a b).st = s.st := rfl
@[simp] theorem State.setByte_keys (a : Nat) (b : Byte) : (s.setByte a b).keys = s.keys := rfl
@[simp] theorem State.setByte_fb (a : Nat) (b : Byte) : (s.setByte a b).fb = s.fb := rfl
@[simp] theorem State.setByte_mem (a : Nat) (b : Byte) : (s.setByte a b).mem = Memory.write s.glyphRom a b s.mem := rfl
@[simp] theorem State.setByte_run (a : Nat) (b : Byte) : (s.setByte a b).run = s.run := rfl
@[simp] theorem State.setByte_boot (a : Nat) (b : Byte) : (s.setByte a b).boot = s.boot := rfl
@[simp] theorem State.setByte_glyphRom (a : Nat) (b : Byte) : (s.setByte a b).glyphRom = s.glyphRom := rfl
@[simp] theorem State.setByte_draws (a : Nat) (b : Byte) : (s.setByte a b).draws = s.draws := rfl
@[simp] theorem State.setByte_schedule (a : Nat) (b : Byte) : (s.setByte a b).schedule = s.schedule := rfl
@[simp] theorem State.setByte_reg (a : Nat) (b : Byte) (y : Reg) : (s.setByte a b).reg y = s.reg y := rfl
@[simp] theorem State.setByte_pixel (a : Nat) (b : Byte) (k l : Nat) : (s.setByte a b).pixel k l = s.pixel k l := rfl

/-! ## setKey -/

@[simp] theorem State.setKey_v (k : Reg) (d : Bool) : (s.setKey k d).v = s.v := rfl
@[simp] theorem State.setKey_pc (k : Reg) (d : Bool) : (s.setKey k d).pc = s.pc := rfl
@[simp] theorem State.setKey_i (k : Reg) (d : Bool) : (s.setKey k d).i = s.i := rfl
@[simp] theorem State.setKey_sp (k : Reg) (d : Bool) : (s.setKey k d).sp = s.sp := rfl
@[simp] theorem State.setKey_stack (k : Reg) (d : Bool) : (s.setKey k d).stack = s.stack := rfl
@[simp] theorem State.setKey_dt (k : Reg) (d : Bool) : (s.setKey k d).dt = s.dt := rfl
@[simp] theorem State.setKey_st (k : Reg) (d : Bool) : (s.setKey k d).st = s.st := rfl
@[simp] theorem State.setKey_keys (k : Reg) (d : Bool) : (s.setKey k d).keys = s.keys.set k.val d k.isLt := rfl
@[simp] theorem State.setKey_fb (k : Reg) (d : Bool) : (s.setKey k d).fb = s.fb := rfl
@[simp] theorem State.setKey_mem (k : Reg) (d : Bool) : (s.setKey k d).mem = s.mem := rfl
@[simp] theorem State.setKey_run (k : Reg) (d : Bool) : (s.setKey k d).run = s.run := rfl
@[simp] theorem State.setKey_boot (k : Reg) (d : Bool) : (s.setKey k d).boot = s.boot := rfl
@[simp] theorem State.setKey_glyphRom (k : Reg) (d : Bool) : (s.setKey k d).glyphRom = s.glyphRom := rfl
@[simp] theorem State.setKey_draws (k : Reg) (d : Bool) : (s.setKey k d).draws = s.draws := rfl
@[simp] theorem State.setKey_schedule (k : Reg) (d : Bool) : (s.setKey k d).schedule = s.schedule := rfl
@[simp] theorem State.setKey_reg (k : Reg) (d : Bool) (y : Reg) : (s.setKey k d).reg y = s.reg y := rfl
@[simp] theorem State.setKey_byteAt (k : Reg) (d : Bool) (a : Nat) : (s.setKey k d).byteAt a = s.byteAt a := rfl
@[simp] theorem State.setKey_pixel (k : Reg) (d : Bool) (a l : Nat) : (s.setKey k d).pixel a l = s.pixel a l := rfl

/-! ## setFb -/

@[simp] theorem State.setFb_v (f : Framebuffer) : (s.setFb f).v = s.v := rfl
@[simp] theorem State.setFb_pc (f : Framebuffer) : (s.setFb f).pc = s.pc := rfl
@[simp] theorem State.setFb_i (f : Framebuffer) : (s.setFb f).i = s.i := rfl
@[simp] theorem State.setFb_sp (f : Framebuffer) : (s.setFb f).sp = s.sp := rfl
@[simp] theorem State.setFb_stack (f : Framebuffer) : (s.setFb f).stack = s.stack := rfl
@[simp] theorem State.setFb_dt (f : Framebuffer) : (s.setFb f).dt = s.dt := rfl
@[simp] theorem State.setFb_st (f : Framebuffer) : (s.setFb f).st = s.st := rfl
@[simp] theorem State.setFb_keys (f : Framebuffer) : (s.setFb f).keys = s.keys := rfl
@[simp] theorem State.setFb_fb (f : Framebuffer) : (s.setFb f).fb = f := rfl
@[simp] theorem State.setFb_mem (f : Framebuffer) : (s.setFb f).mem = s.mem := rfl
@[simp] theorem State.setFb_run (f : Framebuffer) : (s.setFb f).run = s.run := rfl
@[simp] theorem State.setFb_boot (f : Framebuffer) : (s.setFb f).boot = s.boot := rfl
@[simp] theorem State.setFb_glyphRom (f : Framebuffer) : (s.setFb f).glyphRom = s.glyphRom := rfl
@[simp] theorem State.setFb_draws (f : Framebuffer) : (s.setFb f).draws = s.draws := rfl
@[simp] theorem State.setFb_schedule (f : Framebuffer) : (s.setFb f).schedule = s.schedule := rfl
@[simp] theorem State.setFb_reg (f : Framebuffer) (y : Reg) : (s.setFb f).reg y = s.reg y := rfl
@[simp] theorem State.setFb_byteAt (f : Framebuffer) (k : Nat) : (s.setFb f).byteAt k = s.byteAt k := rfl

/-! ## setFlag -/

@[simp] theorem State.setFlag_pc (c : Bool) : (s.setFlag c).pc = s.pc := rfl
@[simp] theorem State.setFlag_i (c : Bool) : (s.setFlag c).i = s.i := rfl
@[simp] theorem State.setFlag_sp (c : Bool) : (s.setFlag c).sp = s.sp := rfl
@[simp] theorem State.setFlag_stack (c : Bool) : (s.setFlag c).stack = s.stack := rfl
@[simp] theorem State.setFlag_dt (c : Bool) : (s.setFlag c).dt = s.dt := rfl
@[simp] theorem State.setFlag_st (c : Bool) : (s.setFlag c).st = s.st := rfl
@[simp] theorem State.setFlag_keys (c : Bool) : (s.setFlag c).keys = s.keys := rfl
@[simp] theorem State.setFlag_fb (c : Bool) : (s.setFlag c).fb = s.fb := rfl
@[simp] theorem State.setFlag_mem (c : Bool) : (s.setFlag c).mem = s.mem := rfl
@[simp] theorem State.setFlag_run (c : Bool) : (s.setFlag c).run = s.run := rfl
@[simp] theorem State.setFlag_boot (c : Bool) : (s.setFlag c).boot = s.boot := rfl
@[simp] theorem State.setFlag_glyphRom (c : Bool) : (s.setFlag c).glyphRom = s.glyphRom := rfl
@[simp] theorem State.setFlag_draws (c : Bool) : (s.setFlag c).draws = s.draws := rfl
@[simp] theorem State.setFlag_schedule (c : Bool) : (s.setFlag c).schedule = s.schedule := rfl
@[simp] theorem State.setFlag_byteAt (c : Bool) (k : Nat) : (s.setFlag c).byteAt k = s.byteAt k := rfl
@[simp] theorem State.setFlag_pixel (c : Bool) (k l : Nat) : (s.setFlag c).pixel k l = s.pixel k l := rfl

/-! ## setResult -/

@[simp] theorem State.setResult_pc (x : Reg) (b : Byte) (c : Bool) : (s.setResult x b c).pc = s.pc := rfl
@[simp] theorem State.setResult_i (x : Reg) (b : Byte) (c : Bool) : (s.setResult x b c).i = s.i := rfl
@[simp] theorem State.setResult_sp (x : Reg) (b : Byte) (c : Bool) : (s.setResult x b c).sp = s.sp := rfl
@[simp] theorem State.setResult_stack (x : Reg) (b : Byte) (c : Bool) : (s.setResult x b c).stack = s.stack := rfl
@[simp] theorem State.setResult_dt (x : Reg) (b : Byte) (c : Bool) : (s.setResult x b c).dt = s.dt := rfl
@[simp] theorem State.setResult_st (x : Reg) (b : Byte) (c : Bool) : (s.setResult x b c).st = s.st := rfl
@[simp] theorem State.setResult_keys (x : Reg) (b : Byte) (c : Bool) : (s.setResult x b c).keys = s.keys := rfl
@[simp] theorem State.setResult_fb (x : Reg) (b : Byte) (c : Bool) : (s.setResult x b c).fb = s.fb := rfl
@[simp] theorem State.setResult_mem (x : Reg) (b : Byte) (c : Bool) : (s.setResult x b c).mem = s.mem := rfl
@[simp] theorem State.setResult_run (x : Reg) (b : Byte) (c : Bool) : (s.setResult x b c).run = s.run := rfl
@[simp] theorem State.setResult_boot (x : Reg) (b : Byte) (c : Bool) : (s.setResult x b c).boot = s.boot := rfl
@[simp] theorem State.setResult_glyphRom (x : Reg) (b : Byte) (c : Bool) : (s.setResult x b c).glyphRom = s.glyphRom := rfl
@[simp] theorem State.setResult_draws (x : Reg) (b : Byte) (c : Bool) : (s.setResult x b c).draws = s.draws := rfl
@[simp] theorem State.setResult_schedule (x : Reg) (b : Byte) (c : Bool) : (s.setResult x b c).schedule = s.schedule := rfl
@[simp] theorem State.setResult_byteAt (x : Reg) (b : Byte) (c : Bool) (k : Nat) : (s.setResult x b c).byteAt k = s.byteAt k := rfl
@[simp] theorem State.setResult_pixel (x : Reg) (b : Byte) (c : Bool) (k l : Nat) : (s.setResult x b c).pixel k l = s.pixel k l := rfl

/-! ## setBoot -/

@[simp] theorem State.setBoot_v (b : Boot) : (s.setBoot b).v = s.v := rfl
@[simp] theorem State.setBoot_pc (b : Boot) : (s.setBoot b).pc = s.pc := rfl
@[simp] theorem State.setBoot_i (b : Boot) : (s.setBoot b).i = s.i := rfl
@[simp] theorem State.setBoot_sp (b : Boot) : (s.setBoot b).sp = s.sp := rfl
@[simp] theorem State.setBoot_stack (b : Boot) : (s.setBoot b).stack = s.stack := rfl
@[simp] theorem State.setBoot_dt (b : Boot) : (s.setBoot b).dt = s.dt := rfl
@[simp] theorem State.setBoot_st (b : Boot) : (s.setBoot b).st = s.st := rfl
@[simp] theorem State.setBoot_keys (b : Boot) : (s.setBoot b).keys = s.keys := rfl
@[simp] theorem State.setBoot_fb (b : Boot) : (s.setBoot b).fb = s.fb := rfl
@[simp] theorem State.setBoot_mem (b : Boot) : (s.setBoot b).mem = s.mem := rfl
@[simp] theorem State.setBoot_run (b : Boot) : (s.setBoot b).run = s.run := rfl
@[simp] theorem State.setBoot_boot (b : Boot) : (s.setBoot b).boot = b := rfl
@[simp] theorem State.setBoot_glyphRom (b : Boot) : (s.setBoot b).glyphRom = s.glyphRom := rfl
@[simp] theorem State.setBoot_draws (b : Boot) : (s.setBoot b).draws = s.draws := rfl
@[simp] theorem State.setBoot_schedule (b : Boot) : (s.setBoot b).schedule = s.schedule := rfl
@[simp] theorem State.setBoot_reg (b : Boot) (y : Reg) : (s.setBoot b).reg y = s.reg y := rfl
@[simp] theorem State.setBoot_byteAt (b : Boot) (m : Nat) : (s.setBoot b).byteAt m = s.byteAt m := rfl
@[simp] theorem State.setBoot_pixel (b : Boot) (m l : Nat) : (s.setBoot b).pixel m l = s.pixel m l := rfl

/-! ## setSchedule -/

@[simp] theorem State.setSchedule_v (l : List Transition) : (s.setSchedule l).v = s.v := rfl
@[simp] theorem State.setSchedule_pc (l : List Transition) : (s.setSchedule l).pc = s.pc := rfl
@[simp] theorem State.setSchedule_i (l : List Transition) : (s.setSchedule l).i = s.i := rfl
@[simp] theorem State.setSchedule_sp (l : List Transition) : (s.setSchedule l).sp = s.sp := rfl
@[simp] theorem State.setSchedule_stack (l : List Transition) : (s.setSchedule l).stack = s.stack := rfl
@[simp] theorem State.setSchedule_dt (l : List Transition) : (s.setSchedule l).dt = s.dt := rfl
@[simp] theorem State.setSchedule_st (l : List Transition) : (s.setSchedule l).st = s.st := rfl
@[simp] theorem State.setSchedule_keys (l : List Transition) : (s.setSchedule l).keys = s.keys := rfl
@[simp] theorem State.setSchedule_fb (l : List Transition) : (s.setSchedule l).fb = s.fb := rfl
@[simp] theorem State.setSchedule_mem (l : List Transition) : (s.setSchedule l).mem = s.mem := rfl
@[simp] theorem State.setSchedule_run (l : List Transition) : (s.setSchedule l).run = s.run := rfl
@[simp] theorem State.setSchedule_boot (l : List Transition) : (s.setSchedule l).boot = s.boot := rfl
@[simp] theorem State.setSchedule_glyphRom (l : List Transition) : (s.setSchedule l).glyphRom = s.glyphRom := rfl
@[simp] theorem State.setSchedule_draws (l : List Transition) : (s.setSchedule l).draws = s.draws := rfl
@[simp] theorem State.setSchedule_schedule (l : List Transition) : (s.setSchedule l).schedule = l := rfl
@[simp] theorem State.setSchedule_reg (l : List Transition) (y : Reg) : (s.setSchedule l).reg y = s.reg y := rfl
@[simp] theorem State.setSchedule_byteAt (l : List Transition) (m : Nat) : (s.setSchedule l).byteAt m = s.byteAt m := rfl
@[simp] theorem State.setSchedule_pixel (l : List Transition) (m j : Nat) : (s.setSchedule l).pixel m j = s.pixel m j := rfl

/-! ## setDraws -/

@[simp] theorem State.setDraws_v (n : Nat) : (s.setDraws n).v = s.v := rfl
@[simp] theorem State.setDraws_pc (n : Nat) : (s.setDraws n).pc = s.pc := rfl
@[simp] theorem State.setDraws_i (n : Nat) : (s.setDraws n).i = s.i := rfl
@[simp] theorem State.setDraws_sp (n : Nat) : (s.setDraws n).sp = s.sp := rfl
@[simp] theorem State.setDraws_stack (n : Nat) : (s.setDraws n).stack = s.stack := rfl
@[simp] theorem State.setDraws_dt (n : Nat) : (s.setDraws n).dt = s.dt := rfl
@[simp] theorem State.setDraws_st (n : Nat) : (s.setDraws n).st = s.st := rfl
@[simp] theorem State.setDraws_keys (n : Nat) : (s.setDraws n).keys = s.keys := rfl
@[simp] theorem State.setDraws_fb (n : Nat) : (s.setDraws n).fb = s.fb := rfl
@[simp] theorem State.setDraws_mem (n : Nat) : (s.setDraws n).mem = s.mem := rfl
@[simp] theorem State.setDraws_run (n : Nat) : (s.setDraws n).run = s.run := rfl
@[simp] theorem State.setDraws_boot (n : Nat) : (s.setDraws n).boot = s.boot := rfl
@[simp] theorem State.setDraws_glyphRom (n : Nat) : (s.setDraws n).glyphRom = s.glyphRom := rfl
@[simp] theorem State.setDraws_draws (n : Nat) : (s.setDraws n).draws = n := rfl
@[simp] theorem State.setDraws_schedule (n : Nat) : (s.setDraws n).schedule = s.schedule := rfl
@[simp] theorem State.setDraws_reg (n : Nat) (y : Reg) : (s.setDraws n).reg y = s.reg y := rfl
@[simp] theorem State.setDraws_byteAt (n : Nat) (m : Nat) : (s.setDraws n).byteAt m = s.byteAt m := rfl
@[simp] theorem State.setDraws_pixel (n : Nat) (m l : Nat) : (s.setDraws n).pixel m l = s.pixel m l := rfl

/-! ## setSp -/

@[simp] theorem State.setSp_v (b : Byte) : (s.setSp b).v = s.v := rfl
@[simp] theorem State.setSp_pc (b : Byte) : (s.setSp b).pc = s.pc := rfl
@[simp] theorem State.setSp_i (b : Byte) : (s.setSp b).i = s.i := rfl
@[simp] theorem State.setSp_sp (b : Byte) : (s.setSp b).sp = b := rfl
@[simp] theorem State.setSp_stack (b : Byte) : (s.setSp b).stack = s.stack := rfl
@[simp] theorem State.setSp_dt (b : Byte) : (s.setSp b).dt = s.dt := rfl
@[simp] theorem State.setSp_st (b : Byte) : (s.setSp b).st = s.st := rfl
@[simp] theorem State.setSp_keys (b : Byte) : (s.setSp b).keys = s.keys := rfl
@[simp] theorem State.setSp_fb (b : Byte) : (s.setSp b).fb = s.fb := rfl
@[simp] theorem State.setSp_mem (b : Byte) : (s.setSp b).mem = s.mem := rfl
@[simp] theorem State.setSp_run (b : Byte) : (s.setSp b).run = s.run := rfl
@[simp] theorem State.setSp_boot (b : Byte) : (s.setSp b).boot = s.boot := rfl
@[simp] theorem State.setSp_glyphRom (b : Byte) : (s.setSp b).glyphRom = s.glyphRom := rfl
@[simp] theorem State.setSp_draws (b : Byte) : (s.setSp b).draws = s.draws := rfl
@[simp] theorem State.setSp_schedule (b : Byte) : (s.setSp b).schedule = s.schedule := rfl
@[simp] theorem State.setSp_reg (b : Byte) (y : Reg) : (s.setSp b).reg y = s.reg y := rfl
@[simp] theorem State.setSp_byteAt (b : Byte) (m : Nat) : (s.setSp b).byteAt m = s.byteAt m := rfl
@[simp] theorem State.setSp_pixel (b : Byte) (m l : Nat) : (s.setSp b).pixel m l = s.pixel m l := rfl

/-! ## setEntry -/

@[simp] theorem State.setEntry_v (k : Fin 16) (a : Word) : (s.setEntry k a).v = s.v := rfl
@[simp] theorem State.setEntry_pc (k : Fin 16) (a : Word) : (s.setEntry k a).pc = s.pc := rfl
@[simp] theorem State.setEntry_i (k : Fin 16) (a : Word) : (s.setEntry k a).i = s.i := rfl
@[simp] theorem State.setEntry_sp (k : Fin 16) (a : Word) : (s.setEntry k a).sp = s.sp := rfl
@[simp] theorem State.setEntry_stack (k : Fin 16) (a : Word) : (s.setEntry k a).stack = s.stack.set k.val a k.isLt := rfl
@[simp] theorem State.setEntry_dt (k : Fin 16) (a : Word) : (s.setEntry k a).dt = s.dt := rfl
@[simp] theorem State.setEntry_st (k : Fin 16) (a : Word) : (s.setEntry k a).st = s.st := rfl
@[simp] theorem State.setEntry_keys (k : Fin 16) (a : Word) : (s.setEntry k a).keys = s.keys := rfl
@[simp] theorem State.setEntry_fb (k : Fin 16) (a : Word) : (s.setEntry k a).fb = s.fb := rfl
@[simp] theorem State.setEntry_mem (k : Fin 16) (a : Word) : (s.setEntry k a).mem = s.mem := rfl
@[simp] theorem State.setEntry_run (k : Fin 16) (a : Word) : (s.setEntry k a).run = s.run := rfl
@[simp] theorem State.setEntry_boot (k : Fin 16) (a : Word) : (s.setEntry k a).boot = s.boot := rfl
@[simp] theorem State.setEntry_glyphRom (k : Fin 16) (a : Word) : (s.setEntry k a).glyphRom = s.glyphRom := rfl
@[simp] theorem State.setEntry_draws (k : Fin 16) (a : Word) : (s.setEntry k a).draws = s.draws := rfl
@[simp] theorem State.setEntry_schedule (k : Fin 16) (a : Word) : (s.setEntry k a).schedule = s.schedule := rfl
@[simp] theorem State.setEntry_reg (k : Fin 16) (a : Word) (y : Reg) : (s.setEntry k a).reg y = s.reg y := rfl
@[simp] theorem State.setEntry_byteAt (k : Fin 16) (a : Word) (m : Nat) : (s.setEntry k a).byteAt m = s.byteAt m := rfl
@[simp] theorem State.setEntry_pixel (k : Fin 16) (a : Word) (m l : Nat) : (s.setEntry k a).pixel m l = s.pixel m l := rfl

/-! ## A draw of the random byte -/

@[simp] theorem State.draw8_v : s.draw8.2.v = s.v := rfl
@[simp] theorem State.draw8_pc : s.draw8.2.pc = s.pc := rfl
@[simp] theorem State.draw8_i : s.draw8.2.i = s.i := rfl
@[simp] theorem State.draw8_sp : s.draw8.2.sp = s.sp := rfl
@[simp] theorem State.draw8_stack : s.draw8.2.stack = s.stack := rfl
@[simp] theorem State.draw8_dt : s.draw8.2.dt = s.dt := rfl
@[simp] theorem State.draw8_st : s.draw8.2.st = s.st := rfl
@[simp] theorem State.draw8_keys : s.draw8.2.keys = s.keys := rfl
@[simp] theorem State.draw8_fb : s.draw8.2.fb = s.fb := rfl
@[simp] theorem State.draw8_mem : s.draw8.2.mem = s.mem := rfl
@[simp] theorem State.draw8_run : s.draw8.2.run = s.run := rfl
@[simp] theorem State.draw8_boot : s.draw8.2.boot = s.boot := rfl
@[simp] theorem State.draw8_glyphRom : s.draw8.2.glyphRom = s.glyphRom := rfl
@[simp] theorem State.draw8_schedule : s.draw8.2.schedule = s.schedule := rfl
@[simp] theorem State.draw8_draws : s.draw8.2.draws = s.draws + 1 := rfl
@[simp] theorem State.draw8_reg (y : Reg) : s.draw8.2.reg y = s.reg y := rfl
@[simp] theorem State.draw8_byteAt (k : Nat) : s.draw8.2.byteAt k = s.byteAt k := rfl
@[simp] theorem State.draw8_pixel (k l : Nat) : s.draw8.2.pixel k l = s.pixel k l := rfl
@[simp] theorem State.draw8_value : s.draw8.1 = Config.drawByte s.draws := rfl

/-! ## Reading back a register -/

/-- A register written reads as written, every other as before (10_state.md R20: no aliases). -/
@[simp] theorem State.setReg_reg (x y : Reg) (b : Byte) : (s.setReg x b).reg y = if y = x then b else s.reg y := by
  simp only [State.reg, State.setReg, Vector.get_eq_getElem, Vector.getElem_set, Fin.ext_iff, eq_comm]

/-- VF holds the flag, every other register is as before. -/
@[simp] theorem State.setFlag_reg (c : Bool) (y : Reg) :
    (s.setFlag c).reg y = if y = VF then flagByte c else s.reg y := by
  simp [State.setFlag]

/-- The flag survives the result (10_state.md R22). -/
@[simp] theorem State.setResult_reg (x y : Reg) (b : Byte) (c : Bool) :
    (s.setResult x b c).reg y = if y = VF then flagByte c else if y = x then b else s.reg y := by
  simp [State.setResult]

/-- A key written reads as written, every other as before. -/
theorem State.setKey_get (k j : Reg) (d : Bool) : (s.setKey k d).keys.get j = if j = k then d else s.keys.get j := by
  simp only [State.setKey, Vector.get_eq_getElem, Vector.getElem_set, Fin.ext_iff, eq_comm]

/-- A stack entry written reads as written, every other as before. -/
theorem State.setEntry_get (k j : Fin 16) (a : Word) :
    (s.setEntry k a).stack.get j = if j = k then a else s.stack.get j := by
  simp only [State.setEntry, Vector.get_eq_getElem, Vector.getElem_set, Fin.ext_iff, eq_comm]

/-! ## A conditional skip -/

@[simp] theorem State.skipIf_v (c : Bool) : (s.skipIf c).v = s.v := by cases c <;> rfl
@[simp] theorem State.skipIf_i (c : Bool) : (s.skipIf c).i = s.i := by cases c <;> rfl
@[simp] theorem State.skipIf_sp (c : Bool) : (s.skipIf c).sp = s.sp := by cases c <;> rfl
@[simp] theorem State.skipIf_stack (c : Bool) : (s.skipIf c).stack = s.stack := by cases c <;> rfl
@[simp] theorem State.skipIf_dt (c : Bool) : (s.skipIf c).dt = s.dt := by cases c <;> rfl
@[simp] theorem State.skipIf_st (c : Bool) : (s.skipIf c).st = s.st := by cases c <;> rfl
@[simp] theorem State.skipIf_keys (c : Bool) : (s.skipIf c).keys = s.keys := by cases c <;> rfl
@[simp] theorem State.skipIf_fb (c : Bool) : (s.skipIf c).fb = s.fb := by cases c <;> rfl
@[simp] theorem State.skipIf_mem (c : Bool) : (s.skipIf c).mem = s.mem := by cases c <;> rfl
@[simp] theorem State.skipIf_run (c : Bool) : (s.skipIf c).run = s.run := by cases c <;> rfl
@[simp] theorem State.skipIf_boot (c : Bool) : (s.skipIf c).boot = s.boot := by cases c <;> rfl
@[simp] theorem State.skipIf_glyphRom (c : Bool) : (s.skipIf c).glyphRom = s.glyphRom := by cases c <;> rfl
@[simp] theorem State.skipIf_draws (c : Bool) : (s.skipIf c).draws = s.draws := by cases c <;> rfl
@[simp] theorem State.skipIf_schedule (c : Bool) : (s.skipIf c).schedule = s.schedule := by cases c <;> rfl
@[simp] theorem State.skipIf_reg (c : Bool) (y : Reg) : (s.skipIf c).reg y = s.reg y := by cases c <;> rfl
@[simp] theorem State.skipIf_byteAt (c : Bool) (k : Nat) : (s.skipIf c).byteAt k = s.byteAt k := by cases c <;> rfl
@[simp] theorem State.skipIf_pixel (c : Bool) (k l : Nat) : (s.skipIf c).pixel k l = s.pixel k l := by cases c <;> rfl

/-- A skip adds 2 to `pc` when its condition holds (40_control_flow.md). -/
theorem State.skipIf_pc (c : Bool) : (s.skipIf c).pc = if c then s.pc + 2 else s.pc := by cases c <;> rfl

end Sys2Proof.Machine
end

