-- ==== Sys2Proof/Laws/Memory.lean ====
section
/-!
SUPPORT. Memory: a byte written reads back, every other byte is left alone, and every operation keeps the canonical form.
The read laws hold of every list of cells, canonical or not.
-/

namespace Sys2Proof.Machine

variable {rom : GlyphRom} {a k : Nat} {b : Byte}

@[simp] theorem Config.memTop_eq : Config.memTop = 0xFFF := rfl
@[simp] theorem Config.loadMax_eq : Config.loadMax = 3583 := rfl
@[simp] theorem Config.loadAddr_eq : Config.loadAddr = 0x200 := rfl

/-! ## Reading what was written -/

theorem Memory.read_insert_self (m : List Host.Cell) : Memory.read rom a (Memory.insert a b m) = b := by
  induction m with
  | nil => simp [Memory.insert, Memory.read]
  | cons c rest ih =>
    simp only [Memory.insert]
    split
    · simp [Memory.read]
    · split
      · simp [Memory.read]
      · rename_i _ hne
        simp only [Memory.read]
        rw [if_neg (fun h => hne h.symm), ih]

theorem Memory.read_insert_other (hk : k ≠ a) (m : List Host.Cell) :
    Memory.read rom k (Memory.insert a b m) = Memory.read rom k m := by
  have hak : a ≠ k := fun h => hk h.symm
  induction m with
  | nil => simp [Memory.insert, Memory.read, hak]
  | cons c rest ih =>
    simp only [Memory.insert]
    split
    · simp [Memory.read, hak]
    · split
      · rename_i heq
        have : c.1 ≠ k := fun h => hk (h ▸ heq.symm)
        simp [Memory.read, hak, this]
      · simp only [Memory.read]
        rw [ih]

theorem Memory.read_erase_self (m : List Host.Cell) :
    Memory.read rom a (m.filter fun c => c.1 != a) = Memory.unlisted rom a := by
  induction m with
  | nil => rfl
  | cons c rest ih =>
    by_cases h : c.1 = a
    · simpa [List.filter_cons, h] using ih
    · simpa [List.filter_cons, h, Memory.read] using ih

theorem Memory.read_erase_other (hk : k ≠ a) (m : List Host.Cell) :
    Memory.read rom k (m.filter fun c => c.1 != a) = Memory.read rom k m := by
  induction m with
  | nil => rfl
  | cons c rest ih =>
    by_cases h : c.1 = a
    · have : c.1 ≠ k := fun h' => hk (h'.symm.trans h)
      simp only [List.filter_cons, h, bne_self_eq_false, Bool.false_eq_true, if_false, ih, Memory.read]
      rw [if_neg (fun h' => hk h'.symm)]
    · simp only [List.filter_cons, bne_iff_ne, ne_eq, h, not_false_eq_true, if_true, Memory.read, ih]

/-- A byte written reads as written; every other byte reads as before (20_memory.md R43, R47). -/
theorem Memory.read_write (m : List Host.Cell) :
    Memory.read rom k (Memory.write rom a b m) = if k = a then b else Memory.read rom k m := by
  unfold Memory.write
  by_cases hk : k = a
  · subst hk
    split
    · rename_i h
      simp [Memory.read_erase_self, h]
    · simp [Memory.read_insert_self]
  · rw [if_neg hk]
    split
    · exact Memory.read_erase_other hk m
    · exact Memory.read_insert_other hk m

/-! ## The canonical form -/

theorem Memory.wf_nil : Memory.wf rom [] := by simp [Memory.wf]

theorem Memory.mem_insert {c : Host.Cell} {m : List Host.Cell} (h : c ∈ Memory.insert a b m) : c = (a, b) ∨ c ∈ m := by
  induction m with
  | nil => simpa [Memory.insert] using h
  | cons d rest ih =>
    simp only [Memory.insert] at h
    split at h
    · simpa using h
    · split at h
      · rcases List.mem_cons.mp h with h | h
        · exact .inl h
        · exact .inr (List.mem_cons_of_mem _ h)
      · rcases List.mem_cons.mp h with h | h
        · exact .inr (h ▸ List.mem_cons_self)
        · rcases ih h with h | h
          · exact .inl h
          · exact .inr (List.mem_cons_of_mem _ h)

theorem Memory.insert_ascending {m : List Host.Cell} (h : m.Pairwise fun c d => c.1 < d.1) :
    (Memory.insert a b m).Pairwise fun c d => c.1 < d.1 := by
  induction m with
  | nil => simp [Memory.insert]
  | cons c rest ih =>
    rw [List.pairwise_cons] at h
    simp only [Memory.insert]
    split
    · rename_i hlt
      refine List.pairwise_cons.mpr ⟨?_, List.pairwise_cons.mpr h⟩
      intro d hd
      rcases List.mem_cons.mp hd with rfl | hd
      · exact hlt
      · exact hlt.trans (h.1 d hd)
    · split
      · rename_i heq
        exact List.pairwise_cons.mpr ⟨fun d hd => heq ▸ h.1 d hd, h.2⟩
      · refine List.pairwise_cons.mpr ⟨?_, ih h.2⟩
        intro d hd
        rcases Memory.mem_insert hd with rfl | hd
        · show c.1 < a
          omega
        · exact h.1 d hd

/-- A write inside the 4096 bytes keeps the canonical form. -/
theorem Memory.wf_write {m : List Host.Cell} (ha : a ≤ Config.memTop) (h : Memory.wf rom m) :
    Memory.wf rom (Memory.write rom a b m) := by
  unfold Memory.write
  split
  · exact ⟨h.1.filter _, fun c hc => h.2 c (List.mem_filter.mp hc).1⟩
  · rename_i hb
    refine ⟨Memory.insert_ascending h.1, fun c hc => ?_⟩
    rcases Memory.mem_insert hc with rfl | hc
    · exact ⟨ha, hb⟩
    · exact h.2 c hc

/-! ## Bytes of the state -/

/-- A byte written reads as written, every other byte as before. -/
@[simp] theorem State.setByte_byteAt (s : State) (a k : Nat) (b : Byte) :
    (s.setByte a b).byteAt k = if k = a then b else s.byteAt k :=
  Memory.read_write s.mem

theorem State.setByte_wf {s : State} (ha : a ≤ Config.memTop) (h : Memory.wf s.glyphRom s.mem) :
    Memory.wf (s.setByte a b).glyphRom (s.setByte a b).mem :=
  Memory.wf_write ha h

/-- A run of bytes changes memory only: it is the state with another list of cells. -/
theorem State.setBytes_eq (s : State) (a : Nat) (bs : List Byte) :
    s.setBytes a bs = { s with mem := (s.setBytes a bs).mem } := by
  induction bs generalizing s a with
  | nil => rfl
  | cons b bs ih =>
    rw [State.setBytes, ih]
    rfl

@[simp] theorem State.setBytes_v (s : State) (a : Nat) (bs : List Byte) : (s.setBytes a bs).v = s.v := by
  rw [State.setBytes_eq]

@[simp] theorem State.setBytes_pc (s : State) (a : Nat) (bs : List Byte) : (s.setBytes a bs).pc = s.pc := by
  rw [State.setBytes_eq]

@[simp] theorem State.setBytes_i (s : State) (a : Nat) (bs : List Byte) : (s.setBytes a bs).i = s.i := by
  rw [State.setBytes_eq]

@[simp] theorem State.setBytes_sp (s : State) (a : Nat) (bs : List Byte) : (s.setBytes a bs).sp = s.sp := by
  rw [State.setBytes_eq]

@[simp] theorem State.setBytes_stack (s : State) (a : Nat) (bs : List Byte) : (s.setBytes a bs).stack = s.stack := by
  rw [State.setBytes_eq]

@[simp] theorem State.setBytes_dt (s : State) (a : Nat) (bs : List Byte) : (s.setBytes a bs).dt = s.dt := by
  rw [State.setBytes_eq]

@[simp] theorem State.setBytes_st (s : State) (a : Nat) (bs : List Byte) : (s.setBytes a bs).st = s.st := by
  rw [State.setBytes_eq]

@[simp] theorem State.setBytes_keys (s : State) (a : Nat) (bs : List Byte) : (s.setBytes a bs).keys = s.keys := by
  rw [State.setBytes_eq]

@[simp] theorem State.setBytes_fb (s : State) (a : Nat) (bs : List Byte) : (s.setBytes a bs).fb = s.fb := by
  rw [State.setBytes_eq]

@[simp] theorem State.setBytes_run (s : State) (a : Nat) (bs : List Byte) : (s.setBytes a bs).run = s.run := by
  rw [State.setBytes_eq]

@[simp] theorem State.setBytes_boot (s : State) (a : Nat) (bs : List Byte) : (s.setBytes a bs).boot = s.boot := by
  rw [State.setBytes_eq]

@[simp] theorem State.setBytes_glyphRom (s : State) (a : Nat) (bs : List Byte) : (s.setBytes a bs).glyphRom = s.glyphRom := by
  rw [State.setBytes_eq]

@[simp] theorem State.setBytes_draws (s : State) (a : Nat) (bs : List Byte) : (s.setBytes a bs).draws = s.draws := by
  rw [State.setBytes_eq]

@[simp] theorem State.setBytes_schedule (s : State) (a : Nat) (bs : List Byte) : (s.setBytes a bs).schedule = s.schedule := by
  rw [State.setBytes_eq]

@[simp] theorem State.setBytes_reg (s : State) (a : Nat) (bs : List Byte) (y : Reg) :
    (s.setBytes a bs).reg y = s.reg y := by
  simp only [State.reg, State.setBytes_v]

@[simp] theorem State.setBytes_pixel (s : State) (a : Nat) (bs : List Byte) (k l : Nat) :
    (s.setBytes a bs).pixel k l = s.pixel k l := by
  simp only [State.pixel, State.setBytes_fb]

/-- What a run of bytes leaves to read: the `j`-th byte at `a + j`, and every other address as before. -/
theorem State.setBytes_byteAt (s : State) (a k : Nat) (bs : List Byte) :
    (s.setBytes a bs).byteAt k = if h : a ≤ k ∧ k - a < bs.length then bs[k - a] else s.byteAt k := by
  induction bs generalizing s a with
  | nil => simp [State.setBytes]
  | cons b bs ih =>
    rw [State.setBytes, ih]
    by_cases hk : k = a
    · subst hk
      simp
    · by_cases hin : a + 1 ≤ k ∧ k - (a + 1) < bs.length
      · have h1 : a ≤ k ∧ k - a < (b :: bs).length := by simp only [List.length_cons]; omega
        have h2 : k - a = (k - (a + 1)) + 1 := by omega
        rw [dif_pos hin, dif_pos h1]
        simp only [h2, List.getElem_cons_succ]
      · have h1 : ¬ (a ≤ k ∧ k - a < (b :: bs).length) := by simp only [List.length_cons]; omega
        rw [dif_neg hin, dif_neg h1]
        simp [hk]

/-- A run of bytes inside the 4096 bytes keeps the canonical form. -/
theorem State.setBytes_wf {s : State} {bs : List Byte} (ha : a + bs.length ≤ Config.memTop + 1)
    (h : Memory.wf s.glyphRom s.mem) : Memory.wf (s.setBytes a bs).glyphRom (s.setBytes a bs).mem := by
  induction bs generalizing s a with
  | nil => exact h
  | cons b bs ih =>
    simp only [List.length_cons] at ha
    rw [State.setBytes]
    exact ih (by omega) (State.setByte_wf (by omega) h)

/-- The `j`-th byte read in a run is the byte at `a + j`. -/
theorem State.bytesAt_getElem? (s : State) (a n j : Nat) :
    (s.bytesAt a n)[j]? = if j < n then some (s.byteAt (a + j)) else none := by
  induction n generalizing a j with
  | zero => simp [State.bytesAt]
  | succ n ih =>
    cases j with
    | zero => simp [State.bytesAt]
    | succ j =>
      simp only [State.bytesAt, List.getElem?_cons_succ, ih]
      simp only [show a + 1 + j = a + (j + 1) by omega, Nat.add_lt_add_iff_right]

@[simp] theorem State.bytesAt_length (s : State) (a n : Nat) : (s.bytesAt a n).length = n := by
  induction n generalizing a with
  | zero => rfl
  | succ n ih => simp [State.bytesAt, ih]

theorem State.reset_memory_wf : Memory.wf State.reset.glyphRom State.reset.mem := Memory.wf_nil

end Sys2Proof.Machine
end

