-- ==== Sys2Proof/Laws/Ops.lean ====
section
/-!
SUPPORT. One lemma per shared operation that says once everything it can do; proofs cite these and do not unfold the
operation.
-/

namespace Sys2Proof.Machine

variable {s t : State}

/-! ## How an instruction ends -/

/-- An instruction answers a next state in two ways: its operations deliver it, or they raise a fault, entered from the state
the instruction began in. -/
theorem State.settle_eq_next_iff {e : Except Stop State} :
    s.settle e = .next t ↔ e = .ok t ∨ ∃ c n, e = .error (.raise c n) ∧ t = s.raise c n := by
  rcases e with (⟨c, n⟩ | f) | u <;> simp [State.settle, eq_comm]

@[simp] theorem State.settle_ok (u : State) : s.settle (.ok u) = .next u := rfl
@[simp] theorem State.settle_raise (c : Cause) (n : Nat) : s.settle (.error (.raise c n)) = .next (s.raise c n) := rfl
@[simp] theorem State.settle_halt (f : Fault) : s.settle (.error (.halt f)) = .fault f := rfl

/-! ## Range-checked memory -/

/-- The range check passes when no byte is accessed or the last one is at most 0xFFF; else it raises MEM_RANGE with the
lowest address above 0xFFF (20_memory.md R42 to R44). -/
theorem checkRange_ok {a n : Nat} (h : n = 0 ∨ a + n ≤ 0x1000) : checkRange a n = .ok () := by
  unfold checkRange
  rw [if_neg (by simp only [Config.memTop_eq]; omega)]

theorem checkRange_error {a n : Nat} (h : n ≠ 0) (h' : 0x1000 < a + n) :
    checkRange a n = .error (.raise .memRange (max a 0x1000)) := by
  unfold checkRange
  rw [if_pos (by simp only [Config.memTop_eq]; omega)]

theorem State.memRead_ok {a n : Nat} (h : n = 0 ∨ a + n ≤ 0x1000) : s.memRead a n = .ok (s.bytesAt a n) := by
  simp [State.memRead, checkRange_ok h]

theorem State.memRead_error {a n : Nat} (h : n ≠ 0) (h' : 0x1000 < a + n) :
    s.memRead a n = .error (.raise .memRange (max a 0x1000)) := by
  simp [State.memRead, checkRange_error h h']

theorem State.memWrite_ok {a : Nat} {bs : List Byte} (h : bs.length = 0 ∨ a + bs.length ≤ 0x1000) :
    s.memWrite a bs = .ok (s.setBytes a bs) := by
  simp [State.memWrite, checkRange_ok h]

theorem State.memWrite_error {a : Nat} {bs : List Byte} (h : bs.length ≠ 0) (h' : 0x1000 < a + bs.length) :
    s.memWrite a bs = .error (.raise .memRange (max a 0x1000)) := by
  simp [State.memWrite, checkRange_error h h']

/-! ## The stack -/

/-- A push below capacity writes at the pointer and increments it (10_state.md R27). -/
theorem State.push_ok {a : Word} (h : s.sp.toNat < 16) :
    s.push a = .ok ((s.setEntry ⟨s.sp.toNat, h⟩ a).setSp (s.sp + 1)) := by
  have hne : s.sp ≠ 16 := fun h' => by simp [h'] at h
  unfold State.push
  rw [if_neg hne, dif_pos h]

theorem State.push_overflow {a : Word} (h : s.sp = 16) : s.push a = .error (.raise .stackOverflow a.toNat) := by
  unfold State.push
  rw [if_pos h]

/-- A pop of a legal, non-empty stack decrements the pointer and reads there (10_state.md R27). -/
theorem State.pop_ok (h0 : s.sp.toNat ≠ 0) (h16 : s.sp.toNat ≤ 16) :
    s.pop = .ok (s.stack.get ⟨s.sp.toNat - 1, by omega⟩, s.setSp (s.sp - 1)) := by
  have hne : s.sp ≠ 0 := fun h => by simp [h] at h0
  have hsub : (s.sp - 1).toNat = s.sp.toNat - 1 := by bv_omega
  have hlt : (s.sp - 1).toNat < 16 := by omega
  unfold State.pop
  rw [if_neg hne, dif_pos hlt]
  simp only [hsub]

theorem State.pop_underflow (h : s.sp = 0) : s.pop = .error (.raise .stackUnderflow 0) := by
  unfold State.pop
  rw [if_pos h]

/-- A push does one of three things: it writes the entry at the pointer, it overflows, or SP is no legal value. -/
theorem State.push_eq (a : Word) :
    (∃ h : s.sp.toNat < 16, s.push a = .ok ((s.setEntry ⟨s.sp.toNat, h⟩ a).setSp (s.sp + 1))) ∨
    (s.sp = 16 ∧ s.push a = .error (.raise .stackOverflow a.toNat)) ∨
    (16 < s.sp.toNat ∧ s.push a = .error (.halt .illegalStackPointer)) := by
  by_cases h : s.sp.toNat < 16
  · exact .inl ⟨h, State.push_ok h⟩
  · by_cases h16 : s.sp = 16
    · exact .inr (.inl ⟨h16, State.push_overflow h16⟩)
    · refine .inr (.inr ⟨by bv_omega, ?_⟩)
      unfold State.push
      rw [if_neg h16, dif_neg h]

/-- A pop does one of three things: it reads the entry below the pointer, it underflows, or SP is no legal value. -/
theorem State.pop_eq :
    (∃ h : s.sp.toNat - 1 < 16, s.sp.toNat ≠ 0 ∧ s.pop = .ok (s.stack.get ⟨s.sp.toNat - 1, h⟩, s.setSp (s.sp - 1))) ∨
    (s.sp = 0 ∧ s.pop = .error (.raise .stackUnderflow 0)) ∨
    (16 < s.sp.toNat ∧ s.pop = .error (.halt .illegalStackPointer)) := by
  by_cases h0 : s.sp = 0
  · exact .inr (.inl ⟨h0, State.pop_underflow h0⟩)
  · by_cases h : s.sp.toNat ≤ 16
    · have hne : s.sp.toNat ≠ 0 := by bv_omega
      exact .inl ⟨by omega, hne, State.pop_ok hne h⟩
    · refine .inr (.inr ⟨by omega, ?_⟩)
      unfold State.pop
      rw [if_neg h0, dif_neg (by bv_omega)]

/-! ## The keys -/

theorem State.keyDown_ok {k : Byte} (h : k.toNat < 16) : s.keyDown k = .ok s.keys[k.toNat] := by
  simp [State.keyDown, h]

theorem State.keyDown_error {k : Byte} (h : 16 ≤ k.toNat) : s.keyDown k = .error (.raise .keyIndex k.toNat) := by
  simp [State.keyDown, Nat.not_lt.mpr h]

/-! ## A block of registers -/

theorem setRegsFrom_getElem (v : Vector Byte 16) (k : Nat) (bs : List Byte) (j : Nat) (hj : j < 16) :
    (setRegsFrom v k bs)[j] = if h : k ≤ j ∧ j - k < bs.length then bs[j - k] else v[j] := by
  induction bs generalizing v k with
  | nil => simp [setRegsFrom]
  | cons b bs ih =>
    rw [setRegsFrom, ih]
    by_cases hk : j = k
    · subst hk
      simp
    · by_cases hin : k + 1 ≤ j ∧ j - (k + 1) < bs.length
      · have h1 : k ≤ j ∧ j - k < (b :: bs).length := by simp only [List.length_cons]; omega
        have h2 : j - k = (j - (k + 1)) + 1 := by omega
        rw [dif_pos hin, dif_pos h1]
        simp only [h2, List.getElem_cons_succ]
      · have h1 : ¬ (k ≤ j ∧ j - k < (b :: bs).length) := by simp only [List.length_cons]; omega
        rw [dif_neg hin, dif_neg h1]
        simp [Ne.symm hk]

/-- Writing V[0], V[1], ... with a list of bytes: register `y` holds the `y`-th byte where the list has one, and is as before
where it has none (42_index_memory.md R125). -/
theorem State.loadRegs_reg (s : State) (bs : List Byte) (y : Reg) :
    (s.loadRegs bs).reg y = if h : y.val < bs.length then bs[y.val] else s.reg y := by
  have := setRegsFrom_getElem s.v 0 bs y.val y.isLt
  simpa [State.reg, State.loadRegs, Vector.get_eq_getElem] using this

@[simp] theorem State.regBlock_length (s : State) (x : Reg) : (s.regBlock x).length = x.val + 1 := by
  have := x.isLt
  simp [State.regBlock]

theorem State.regBlock_getElem (s : State) (x : Reg) (j : Nat) (h : j < (s.regBlock x).length) :
    (s.regBlock x)[j] = s.reg ⟨j, by rw [State.regBlock_length] at h; omega⟩ := by
  simp [State.regBlock, State.reg, Vector.get_eq_getElem]

@[simp] theorem decimalDigits_length (b : Byte) : (decimalDigits b).length = 3 := rfl

/-! ## The boot record -/

/-- An event other than Load moves the boot record only. -/
theorem State.pastReset_eq (s : State) :
    s.pastReset = s.setBoot (if s.boot = .afterReset then .unloaded else s.boot) := by
  rcases s with ⟨_, _, _, _, _, _, _, _, _, _, _, b, _, _, _⟩
  cases b <;> rfl

/-! ## The fetch -/

/-- A fetch from 0x000 to 0xFFE reads the word at `pc`, big-endian (40_control_flow.md R80, 20_memory.md R45). -/
theorem State.fetch_ok (h : s.pc.toNat ≤ 0xFFE) :
    s.fetch = .ok (decode (wordOfBytes (s.byteAt s.pc.toNat) (s.byteAt (s.pc.toNat + 1)))) := by
  simp only [State.fetch, checkRange_ok (a := s.pc.toNat) (n := 2) (by omega)]

theorem State.fetch_error (h : 0xFFE < s.pc.toNat) :
    s.fetch = .error (.raise .memRange (max s.pc.toNat 0x1000)) := by
  simp only [State.fetch, checkRange_error (a := s.pc.toNat) (n := 2) (by decide) (by omega)]

/-- The Step of a running, loaded machine whose `pc` can be fetched from executes the fetched instruction with `pc`
advanced. -/
theorem State.engineStep_ok (hr : s.run = .running) (hb : s.boot = .loaded) (h : s.pc.toNat ≤ 0xFFE) :
    s.engineStep = exec (decode (wordOfBytes (s.byteAt s.pc.toNat) (s.byteAt (s.pc.toNat + 1)))) s.advance := by
  simp only [State.engineStep, hr, hb, State.fetchExecute, State.fetch_ok h]

theorem State.engineStep_fetch_fault (hr : s.run = .running) (hb : s.boot = .loaded) (h : 0xFFE < s.pc.toNat) :
    s.engineStep = .next (s.raise .memRange (max s.pc.toNat 0x1000)) := by
  simp only [State.engineStep, hr, hb, State.fetchExecute, State.fetch_error h, State.settle_raise]

/-! ## The screen -/

theorem pixelAt_togglePixel (fb : Framebuffer) (x y k l : Nat) :
    pixelAt (togglePixel fb x y) k l =
      if k % 64 = x % 64 ∧ l % 32 = y % 32 then !pixelAt fb k l else pixelAt fb k l := by
  unfold togglePixel pixelAt
  by_cases hl : l % 32 = y % 32
  · by_cases hk : k % 64 = x % 64
    · simp [hl, hk]
    · simp [hl, hk, Ne.symm hk]
  · simp [hl, Ne.symm hl]

theorem pixelAt_blankScreen (k l : Nat) : pixelAt blankScreen k l = false := by
  simp [pixelAt, blankScreen]

end Sys2Proof.Machine
end

