-- ==== Sys2Proof/Laws/Exec.lean ====
section
/-!
SUPPORT. How each instruction that can raise a fault ends: one lemma per instruction that lists every way, each with its
condition on the state the instruction began in. The other instructions end in one way, by definition.
-/

namespace Sys2Proof.Machine

variable (s : State)

/-- `00EE` returns, underflows, or finds an SP that no rule produces (40_control_flow.md R83). -/
theorem execRet_cases :
    (∃ h : s.sp.toNat - 1 < 16, s.sp.toNat ≠ 0 ∧
      execRet s = .next ((s.setSp (s.sp - 1)).setPc (s.stack.get ⟨s.sp.toNat - 1, h⟩))) ∨
    (s.sp = 0 ∧ execRet s = .next (s.raise .stackUnderflow 0)) ∨
    (16 < s.sp.toNat ∧ execRet s = .fault .illegalStackPointer) := by
  unfold execRet
  obtain ⟨h, h0, e⟩ | ⟨h, e⟩ | ⟨h, e⟩ := s.pop_eq
  · exact .inl ⟨h, h0, by rw [e]; rfl⟩
  · exact .inr (.inl ⟨h, by rw [e]; rfl⟩)
  · exact .inr (.inr ⟨h, by rw [e]; rfl⟩)

/-- `2nnn` calls, overflows, or finds an SP that no rule produces (40_control_flow.md R85). -/
theorem execCall_cases (nnn : Addr12) :
    (∃ h : s.sp.toNat < 16,
      execCall nnn s = .next (((s.setEntry ⟨s.sp.toNat, h⟩ s.pc).setSp (s.sp + 1)).setPc (addrOperand nnn))) ∨
    (s.sp = 16 ∧ execCall nnn s = .next (s.raise .stackOverflow s.pc.toNat)) ∨
    (16 < s.sp.toNat ∧ execCall nnn s = .fault .illegalStackPointer) := by
  unfold execCall
  obtain ⟨h, e⟩ | ⟨h, e⟩ | ⟨h, e⟩ := s.push_eq s.pc
  · exact .inl ⟨h, by rw [e]; rfl⟩
  · exact .inr (.inl ⟨h, by rw [e]; rfl⟩)
  · exact .inr (.inr ⟨h, by rw [e]; rfl⟩)

/-- `Dxyn` draws, or its sprite reaches above 0xFFF (43_display.md R131, R132). -/
theorem execDrw_cases (x y : Reg) (n : Nibble) :
    ((n = 0 ∨ s.i.toNat + n.toNat - 1 ≤ 0xFFF) ∧
      execDrw x y n s = .next (s.draw x y (s.bytesAt s.i.toNat n.toNat))) ∨
    (n ≠ 0 ∧ s.i.toNat + n.toNat - 1 > 0xFFF ∧ execDrw x y n s = .next (s.raise .memRange (max s.i.toNat 0x1000))) := by
  unfold execDrw State.iAddr
  by_cases hn : n = 0
  · exact .inl ⟨.inl hn, by rw [State.memRead_ok (.inl (by rw [hn]; rfl))]; rfl⟩
  · have hn' : n.toNat ≠ 0 := by bv_omega
    by_cases h : s.i.toNat + n.toNat - 1 ≤ 0xFFF
    · exact .inl ⟨.inr h, by rw [State.memRead_ok (.inr (by omega))]; rfl⟩
    · exact .inr ⟨hn, by omega, by rw [State.memRead_error hn' (by omega)]; rfl⟩

/-- `Fx33` stores three digits, or reaches above 0xFFF (42_index_memory.md R123). -/
theorem execLdB_cases (x : Reg) :
    (s.i.toNat + 2 ≤ 0xFFF ∧ execLdB x s = .next (s.setBytes s.i.toNat (decimalDigits (s.reg x)))) ∨
    (s.i.toNat + 2 > 0xFFF ∧ execLdB x s = .next (s.raise .memRange (max s.i.toNat 0x1000))) := by
  unfold execLdB State.iAddr
  by_cases h : s.i.toNat + 2 ≤ 0xFFF
  · exact .inl ⟨h, by rw [State.memWrite_ok (.inr (by rw [decimalDigits_length]; omega))]; rfl⟩
  · refine .inr ⟨by omega, ?_⟩
    rw [State.memWrite_error (by simp) (by rw [decimalDigits_length]; omega)]
    rfl

/-- `Fx55` stores the block, or reaches above 0xFFF (42_index_memory.md R124). -/
theorem execStRegs_cases (x : Reg) :
    (s.i.toNat + x.val ≤ 0xFFF ∧ execStRegs x s = .next (s.setBytes s.i.toNat (s.regBlock x))) ∨
    (s.i.toNat + x.val > 0xFFF ∧ execStRegs x s = .next (s.raise .memRange (max s.i.toNat 0x1000))) := by
  unfold execStRegs State.iAddr
  by_cases h : s.i.toNat + x.val ≤ 0xFFF
  · exact .inl ⟨h, by rw [State.memWrite_ok (.inr (by rw [State.regBlock_length]; omega))]; rfl⟩
  · refine .inr ⟨by omega, ?_⟩
    rw [State.memWrite_error (by simp) (by rw [State.regBlock_length]; omega)]
    rfl

/-- `Fx65` loads the block, or reaches above 0xFFF (42_index_memory.md R125). -/
theorem execLdRegs_cases (x : Reg) :
    (s.i.toNat + x.val ≤ 0xFFF ∧ execLdRegs x s = .next (s.loadRegs (s.bytesAt s.i.toNat (x.val + 1)))) ∨
    (s.i.toNat + x.val > 0xFFF ∧ execLdRegs x s = .next (s.raise .memRange (max s.i.toNat 0x1000))) := by
  unfold execLdRegs State.iAddr
  by_cases h : s.i.toNat + x.val ≤ 0xFFF
  · exact .inl ⟨h, by rw [State.memRead_ok (.inr (by omega))]; rfl⟩
  · exact .inr ⟨by omega, by rw [State.memRead_error (by omega) (by omega)]; rfl⟩

/-- `Ex9E` tests a key, or V[x] is no key number (44_keyboard.md R140). -/
theorem execSkp_cases (x : Reg) :
    (∃ h : (s.reg x).toNat < 16, execSkp x s = .next (s.skipIf s.keys[(s.reg x).toNat])) ∨
    ((s.reg x).toNat > 15 ∧ execSkp x s = .next (s.raise .keyIndex (s.reg x).toNat)) := by
  unfold execSkp
  by_cases h : (s.reg x).toNat < 16
  · exact .inl ⟨h, by rw [State.keyDown_ok h]; rfl⟩
  · exact .inr ⟨by omega, by rw [State.keyDown_error (by omega)]; rfl⟩

/-- `ExA1` tests a key, or V[x] is no key number (44_keyboard.md R141). -/
theorem execSknp_cases (x : Reg) :
    (∃ h : (s.reg x).toNat < 16, execSknp x s = .next (s.skipIf !s.keys[(s.reg x).toNat])) ∨
    ((s.reg x).toNat > 15 ∧ execSknp x s = .next (s.raise .keyIndex (s.reg x).toNat)) := by
  unfold execSknp
  by_cases h : (s.reg x).toNat < 16
  · exact .inl ⟨h, by rw [State.keyDown_ok h]; rfl⟩
  · exact .inr ⟨by omega, by rw [State.keyDown_error (by omega)]; rfl⟩

end Sys2Proof.Machine
end

