-- ==== Sys2Proof/Laws/PerInstr.lean ====
section
/-!
SUPPORT. Statements made per instruction. EncodesInRow: the word of a well-formed instruction matches the mask and the pattern
of the instruction's own row of the opcode map (30_encoding.md R64), and a NOP's word matches no row.
-/

namespace Sys2Proof.Laws.EncodesInRow

open Sys2Proof

/-- The word of a well-formed instruction lies in the instruction's row of the opcode map. -/
def Statement (i : Instr) : Prop :=
  i.wellFormed = true →
    match instructionRows[i.row]? with
    | some r => encode i &&& r.1 = r.2
    | none => unmatched (encode i) = true

/-! ## A word under the four masks of the map -/

theorem and_F000 (w : Word) : w &&& 0xF000 = formatA (fieldOp w) 0 := by
  apply BitVec.eq_of_getLsbD_eq
  intro j hj
  rw [formatA_getLsbD]
  interval_cases j <;> simp [fieldOp]

theorem and_F00F (w : Word) : w &&& 0xF00F = formatXY (fieldOp w) 0 0 (fieldN w) := by
  apply BitVec.eq_of_getLsbD_eq
  intro j hj
  rw [formatXY_getLsbD]
  interval_cases j <;> simp [fieldOp, fieldN]

theorem and_F0FF (w : Word) : w &&& 0xF0FF = formatXK (fieldOp w) 0 (fieldKK w) := by
  apply BitVec.eq_of_getLsbD_eq
  intro j hj
  rw [formatXK_getLsbD]
  interval_cases j <;> simp [fieldOp, fieldKK]

variable (x y : Reg) (n : Nibble) (kk : Byte) (nnn : Addr12)

theorem cls : Statement .cls := fun _ => show encode .cls &&& 0xFFFF = 0x00E0 by decide
theorem ret : Statement .ret := fun _ => show encode .ret &&& 0xFFFF = 0x00EE by decide
theorem jp : Statement (.jp nnn) := fun _ => (and_F000 _).trans (by simp only [encode, fieldOp_formatA]; rfl)
theorem call : Statement (.call nnn) := fun _ => (and_F000 _).trans (by simp only [encode, fieldOp_formatA]; rfl)
theorem seImm : Statement (.seImm x kk) := fun _ => (and_F000 _).trans (by simp only [encode, fieldOp_formatXK]; rfl)
theorem sneImm : Statement (.sneImm x kk) := fun _ => (and_F000 _).trans (by simp only [encode, fieldOp_formatXK]; rfl)
theorem seReg : Statement (.seReg x y n) := fun _ => (and_F000 _).trans (by simp only [encode, fieldOp_formatXY]; rfl)
theorem ldImm : Statement (.ldImm x kk) := fun _ => (and_F000 _).trans (by simp only [encode, fieldOp_formatXK]; rfl)
theorem addImm : Statement (.addImm x kk) := fun _ => (and_F000 _).trans (by simp only [encode, fieldOp_formatXK]; rfl)
theorem ldReg : Statement (.ldReg x y) :=
  fun _ => (and_F00F _).trans (by simp only [encode, fieldOp_formatXY, fieldN_formatXY]; rfl)
theorem orReg : Statement (.orReg x y) :=
  fun _ => (and_F00F _).trans (by simp only [encode, fieldOp_formatXY, fieldN_formatXY]; rfl)
theorem andReg : Statement (.andReg x y) :=
  fun _ => (and_F00F _).trans (by simp only [encode, fieldOp_formatXY, fieldN_formatXY]; rfl)
theorem xorReg : Statement (.xorReg x y) :=
  fun _ => (and_F00F _).trans (by simp only [encode, fieldOp_formatXY, fieldN_formatXY]; rfl)
theorem addReg : Statement (.addReg x y) :=
  fun _ => (and_F00F _).trans (by simp only [encode, fieldOp_formatXY, fieldN_formatXY]; rfl)
theorem subReg : Statement (.subReg x y) :=
  fun _ => (and_F00F _).trans (by simp only [encode, fieldOp_formatXY, fieldN_formatXY]; rfl)
theorem shr : Statement (.shr x y) :=
  fun _ => (and_F00F _).trans (by simp only [encode, fieldOp_formatXY, fieldN_formatXY]; rfl)
theorem subn : Statement (.subn x y) :=
  fun _ => (and_F00F _).trans (by simp only [encode, fieldOp_formatXY, fieldN_formatXY]; rfl)
theorem shl : Statement (.shl x y) :=
  fun _ => (and_F00F _).trans (by simp only [encode, fieldOp_formatXY, fieldN_formatXY]; rfl)
theorem sneReg : Statement (.sneReg x y n) := fun _ => (and_F000 _).trans (by simp only [encode, fieldOp_formatXY]; rfl)
theorem ldI : Statement (.ldI nnn) := fun _ => (and_F000 _).trans (by simp only [encode, fieldOp_formatA]; rfl)
theorem jpV0 : Statement (.jpV0 nnn) := fun _ => (and_F000 _).trans (by simp only [encode, fieldOp_formatA]; rfl)
theorem rnd : Statement (.rnd x kk) := fun _ => (and_F000 _).trans (by simp only [encode, fieldOp_formatXK]; rfl)
theorem drw : Statement (.drw x y n) := fun _ => (and_F000 _).trans (by simp only [encode, fieldOp_formatXY]; rfl)
theorem skp : Statement (.skp x) :=
  fun _ => (and_F0FF _).trans (by simp only [encode, fieldOp_formatXK, fieldKK_formatXK]; rfl)
theorem sknp : Statement (.sknp x) :=
  fun _ => (and_F0FF _).trans (by simp only [encode, fieldOp_formatXK, fieldKK_formatXK]; rfl)
theorem ldVxDT : Statement (.ldVxDT x) :=
  fun _ => (and_F0FF _).trans (by simp only [encode, fieldOp_formatXK, fieldKK_formatXK]; rfl)
theorem ldVxK : Statement (.ldVxK x) :=
  fun _ => (and_F0FF _).trans (by simp only [encode, fieldOp_formatXK, fieldKK_formatXK]; rfl)
theorem ldDTVx : Statement (.ldDTVx x) :=
  fun _ => (and_F0FF _).trans (by simp only [encode, fieldOp_formatXK, fieldKK_formatXK]; rfl)
theorem ldSTVx : Statement (.ldSTVx x) :=
  fun _ => (and_F0FF _).trans (by simp only [encode, fieldOp_formatXK, fieldKK_formatXK]; rfl)
theorem addI : Statement (.addI x) :=
  fun _ => (and_F0FF _).trans (by simp only [encode, fieldOp_formatXK, fieldKK_formatXK]; rfl)
theorem ldF : Statement (.ldF x) :=
  fun _ => (and_F0FF _).trans (by simp only [encode, fieldOp_formatXK, fieldKK_formatXK]; rfl)
theorem ldB : Statement (.ldB x) :=
  fun _ => (and_F0FF _).trans (by simp only [encode, fieldOp_formatXK, fieldKK_formatXK]; rfl)
theorem stRegs : Statement (.stRegs x) :=
  fun _ => (and_F0FF _).trans (by simp only [encode, fieldOp_formatXK, fieldKK_formatXK]; rfl)
theorem ldRegs : Statement (.ldRegs x) :=
  fun _ => (and_F0FF _).trans (by simp only [encode, fieldOp_formatXK, fieldKK_formatXK]; rfl)
theorem nop (w : Word) : Statement (.nop w) := fun h => h

end Sys2Proof.Laws.EncodesInRow
end

