-- ==== Sys2Proof/Laws/Screen.lean ====
section
/-!
SUPPORT. What drawing a sprite does to every pixel and to the collision result (43_display.md R132, R133): drawing is
inverting a list of points, and because no two of them are the same pixel, each is inverted exactly once.
-/

namespace Sys2Proof.Machine

/-- Two points are the same pixel: their coordinates agree modulo the screen's size (43_display.md R132). -/
def SamePixel (p q : Nat × Nat) : Prop := p.1 % 64 = q.1 % 64 ∧ p.2 % 32 = q.2 % 32

/-- Invert a list of points in order, the collision result becoming true when a set pixel is unset. -/
def plotAll (ps : List (Nat × Nat)) (q : Framebuffer × Bool) : Framebuffer × Bool :=
  ps.foldl (fun r p => plot p.1 p.2 true r) q

/-- The points of one sprite row that lie under a bit of 1. -/
def rowPoints (x y : Nat) (b : Byte) (cols : List Nat) : List (Nat × Nat) :=
  (cols.filter (spriteBit b)).map fun col => (x + col, y)

/-- The points of a sprite that lie under a bit of 1, its first row at `y`. -/
def spritePoints (x y : Nat) : List Byte → List (Nat × Nat)
  | [] => []
  | b :: bs => rowPoints x y b [0, 1, 2, 3, 4, 5, 6, 7] ++ spritePoints x (y + 1) bs

/-! ## Drawing is inverting the sprite's points -/

theorem plotAll_append (ps qs : List (Nat × Nat)) (r : Framebuffer × Bool) :
    plotAll (ps ++ qs) r = plotAll qs (plotAll ps r) := by
  simp [plotAll]

theorem foldl_plot_eq (x y : Nat) (b : Byte) (cols : List Nat) (r : Framebuffer × Bool) :
    cols.foldl (fun q col => plot (x + col) y (spriteBit b col) q) r = plotAll (rowPoints x y b cols) r := by
  induction cols generalizing r with
  | nil => rfl
  | cons col cols ih =>
    rw [List.foldl_cons, ih]
    cases h : spriteBit b col <;> simp [rowPoints, plotAll, h, plot]

theorem drawRow_eq (x y : Nat) (b : Byte) (r : Framebuffer × Bool) :
    drawRow x y b r = plotAll (rowPoints x y b [0, 1, 2, 3, 4, 5, 6, 7]) r :=
  foldl_plot_eq x y b _ r

theorem drawRows_eq (x y : Nat) (bs : List Byte) (r : Framebuffer × Bool) :
    drawRows x y bs r = plotAll (spritePoints x y bs) r := by
  induction bs generalizing y r with
  | nil => rfl
  | cons b bs ih => rw [drawRows, ih, drawRow_eq, spritePoints, plotAll_append]

/-! ## The points of a sprite -/

theorem mem_rowPoints {x y : Nat} {b : Byte} {cols : List Nat} {p : Nat × Nat} :
    p ∈ rowPoints x y b cols ↔ ∃ col ∈ cols, spriteBit b col = true ∧ p = (x + col, y) := by
  simp only [rowPoints, List.mem_map, List.mem_filter]
  constructor
  · rintro ⟨col, ⟨hc, hb⟩, rfl⟩
    exact ⟨col, hc, hb, rfl⟩
  · rintro ⟨col, hc, hb, rfl⟩
    exact ⟨col, ⟨hc, hb⟩, rfl⟩

/-- A point of the sprite is one under a bit of 1: row `row`, column `col`. -/
theorem mem_spritePoints {x y : Nat} {bs : List Byte} {p : Nat × Nat} :
    p ∈ spritePoints x y bs ↔
      ∃ row col, ∃ h : row < bs.length, col < 8 ∧ spriteBit bs[row] col = true ∧ p = (x + col, y + row) := by
  induction bs generalizing y with
  | nil => simp [spritePoints]
  | cons b bs ih =>
    rw [spritePoints, List.mem_append, mem_rowPoints, ih]
    constructor
    · rintro (⟨col, hc, hb, rfl⟩ | ⟨row, col, h, hc, hb, rfl⟩)
      · exact ⟨0, col, by simp, by simp at hc; omega, hb, rfl⟩
      · exact ⟨row + 1, col, by simpa using h, hc, by simpa using hb, by simp; omega⟩
    · rintro ⟨row, col, h, hc, hb, rfl⟩
      cases row with
      | zero => exact .inl ⟨col, by simp; omega, by simpa using hb, rfl⟩
      | succ row =>
        refine .inr ⟨row, col, by simpa using h, hc, by simpa using hb, ?_⟩
        simp
        omega

/-- No two points of a sprite of at most 32 rows are the same pixel. -/
theorem spritePoints_distinct (x y : Nat) (bs : List Byte) (h : bs.length ≤ 32) :
    (spritePoints x y bs).Pairwise fun p q => ¬ SamePixel p q := by
  induction bs generalizing y with
  | nil => simp [spritePoints]
  | cons b bs ih =>
    simp only [List.length_cons] at h
    rw [spritePoints, List.pairwise_append]
    refine ⟨?_, ih (y + 1) (by omega), ?_⟩
    · refine List.pairwise_map.mpr (List.Pairwise.filter _ ?_)
      simp [SamePixel]
      omega
    · intro p hp q hq
      obtain ⟨_, _, _, rfl⟩ := mem_rowPoints.mp hp
      obtain ⟨row, _, hr, _, _, rfl⟩ := mem_spritePoints.mp hq
      simp only [SamePixel]
      omega

/-! ## What inverting distinct points does -/

/-- Each point's pixel is inverted once and no other pixel changes. -/
theorem plotAll_pixel (ps : List (Nat × Nat)) (hd : ps.Pairwise fun p q => ¬ SamePixel p q) (r : Framebuffer × Bool)
    (k l : Nat) :
    pixelAt (plotAll ps r).1 k l ≠ pixelAt r.1 k l ↔ ∃ p ∈ ps, SamePixel (k, l) p := by
  induction ps generalizing r with
  | nil => simp [plotAll]
  | cons p ps ih =>
    rw [List.pairwise_cons] at hd
    have hrec := ih hd.2 (plot p.1 p.2 true r)
    have hstep : pixelAt (plot p.1 p.2 true r).1 k l =
        if k % 64 = p.1 % 64 ∧ l % 32 = p.2 % 32 then !pixelAt r.1 k l else pixelAt r.1 k l :=
      pixelAt_togglePixel r.1 p.1 p.2 k l
    change pixelAt (plotAll ps (plot p.1 p.2 true r)).1 k l ≠ _ ↔ _
    by_cases hp : SamePixel (k, l) p
    · rw [if_pos (show k % 64 = p.1 % 64 ∧ l % 32 = p.2 % 32 from hp)] at hstep
      have hno : ¬ ∃ q ∈ ps, SamePixel (k, l) q := by
        rintro ⟨q, hq, hs⟩
        exact hd.1 q hq ⟨hp.1.symm.trans hs.1, hp.2.symm.trans hs.2⟩
      have hsame := not_not.mp (mt hrec.mp hno)
      rw [hsame, hstep]
      simpa using .inl hp
    · rw [if_neg (show ¬ (k % 64 = p.1 % 64 ∧ l % 32 = p.2 % 32) from hp)] at hstep
      rw [hstep] at hrec
      simpa [hp] using hrec

/-- The collision result: it was true, or some point's pixel was set. -/
theorem plotAll_collision (ps : List (Nat × Nat)) (hd : ps.Pairwise fun p q => ¬ SamePixel p q)
    (r : Framebuffer × Bool) :
    (plotAll ps r).2 = true ↔ r.2 = true ∨ ∃ p ∈ ps, pixelAt r.1 p.1 p.2 = true := by
  induction ps generalizing r with
  | nil => simp [plotAll]
  | cons p ps ih =>
    rw [List.pairwise_cons] at hd
    change (plotAll ps (plot p.1 p.2 true r)).2 = true ↔ _
    rw [ih hd.2]
    have hother : ∀ q ∈ ps, pixelAt (plot p.1 p.2 true r).1 q.1 q.2 = pixelAt r.1 q.1 q.2 := fun q hq =>
      (pixelAt_togglePixel r.1 p.1 p.2 q.1 q.2).trans (if_neg fun h => hd.1 q hq ⟨h.1.symm, h.2.symm⟩)
    have hflag : (plot p.1 p.2 true r).2 = (r.2 || pixelAt r.1 p.1 p.2) := rfl
    rw [hflag]
    constructor
    · rintro (h | ⟨q, hq, h⟩)
      · rcases Bool.or_eq_true_iff.mp h with h | h
        · exact .inl h
        · exact .inr ⟨p, List.mem_cons_self, h⟩
      · exact .inr ⟨q, List.mem_cons_of_mem _ hq, (hother q hq) ▸ h⟩
    · rintro (h | ⟨q, hq, h⟩)
      · exact .inl (by simp [h])
      · rcases List.mem_cons.mp hq with rfl | hq
        · exact .inl (by simp [h])
        · exact .inr ⟨q, hq, (hother q hq).symm ▸ h⟩

/-! ## DrawSprite -/

/-- `DrawSprite` inverts exactly the pixels of the sprite's points (43_display.md R132, R133). -/
theorem drawSprite_pixel (fb : Framebuffer) (x y : Nat) (bs : List Byte) (h : bs.length ≤ 32) (k l : Nat) :
    pixelAt (drawSprite fb x y bs).1 k l ≠ pixelAt fb k l ↔ ∃ p ∈ spritePoints x y bs, SamePixel (k, l) p := by
  unfold drawSprite
  rw [drawRows_eq]
  exact plotAll_pixel _ (spritePoints_distinct x y bs h) (fb, false) k l

/-- The collision of `DrawSprite` is true exactly when some point of the sprite lay on a set pixel (43_display.md R133). -/
theorem drawSprite_collision (fb : Framebuffer) (x y : Nat) (bs : List Byte) (h : bs.length ≤ 32) :
    (drawSprite fb x y bs).2 = true ↔ ∃ p ∈ spritePoints x y bs, pixelAt fb p.1 p.2 = true := by
  unfold drawSprite
  rw [drawRows_eq, plotAll_collision _ (spritePoints_distinct x y bs h)]
  simp

/-- A pixel does not depend on whole screens added to its coordinates. -/
theorem pixelAt_mod (fb : Framebuffer) (k l : Nat) : pixelAt fb (k % 64) (l % 32) = pixelAt fb k l := by
  simp [pixelAt]

end Sys2Proof.Machine
end

