-- ==== Sys2Proof/Tests/Slice0.lean ====
section
/-!
SUPPORT. Tests of single steps and witnesses of the statements' hypotheses. The expected results are those of 95_test_vectors.md,
whose names (S1, V-C1, ...) stand in the comments; the words are written out from 30_encoding.md R64.
-/

namespace Sys2Proof.Tests

open Sys2Proof.Machine Sys2Proof.Claim

/-! ## Small states -/

/-- A loaded machine at the entry of Execute after a fetch at 0x200. -/
def entry : State := (State.reset.setBoot .loaded).setPc 0x202

/-- V[1], V[2] and V[15] as given. -/
def regs (v1 v2 vf : Byte) : State := ((entry.setReg 1 v1).setReg 2 v2).setReg VF vf

/-- I as given. -/
def index (a : Word) : State := entry.setI a

/-- I is 0x300 with the sprite bytes there, and V[1], V[2] as given. -/
def sprite (v1 v2 : Byte) (bytes : List Byte) : State := ((regs v1 v2 1).setI 0x300).setBytes 0x300 bytes

/-- Only the pixel (0, 0) is set. -/
def corner (s : State) : State := s.setFb (togglePixel blankScreen 0 0)

/-- The engine waits for a key with the destination `x`. -/
def waiting (x : Reg) : State := entry.setRun (.awaitingKey x)

/-- A run that has gone wrong. -/
def gone : State := entry.raise .keyIndex 16

/-- What is read from the next state of an outcome. -/
def after {α : Type} (r : Result) (read : State → α) : Option α :=
  match r with
  | .next t => some (read t)
  | .fault _ => none
  | .refused _ => none

/-- Execute the instruction a word decodes to. -/
def run (w : Word) (s : State) : Result := exec (decode w) s

/-! ## Well-formedness: the one check, that a NOP's word selects no other instruction -/

theorem test_wellFormed_accepts :
    (Instr.nop 0x0000).wellFormed = true ∧ (Instr.nop 0x8128).wellFormed = true ∧ (Instr.nop 0xFFFF).wellFormed = true := by
  decide

theorem test_wellFormed_refuses :
    (Instr.nop 0x00E0).wellFormed = false ∧ (Instr.nop 0x800E).wellFormed = false ∧
    (Instr.nop 0xE1A1).wellFormed = false ∧ (Instr.nop 0xF455).wellFormed = false := by decide

/-! ## Decoding: every constructor from a word written out by hand -/

theorem test_decode_family0 :
    decode 0x00E0 = .cls ∧ decode 0x00EE = .ret ∧ decode 0x00E1 = .nop 0x00E1 ∧
    decode 0x0FEE = .nop 0x0FEE := by decide

theorem test_encode_family0 :
    encode (.cls) = 0x00E0 ∧ encode (.ret) = 0x00EE ∧ encode (.nop 0x00E1) = 0x00E1 ∧
    encode (.nop 0x0FEE) = 0x0FEE := by decide

theorem test_decode_families1to4 :
    decode 0x1ABC = .jp 0xABC ∧ decode 0x2F0A = .call 0xF0A ∧ decode 0x3542 = .seImm 5 0x42 ∧
    decode 0x4A10 = .sneImm 10 0x10 := by decide

theorem test_encode_families1to4 :
    encode (.jp 0xABC) = 0x1ABC ∧ encode (.call 0xF0A) = 0x2F0A ∧ encode (.seImm 5 0x42) = 0x3542 ∧
    encode (.sneImm 10 0x10) = 0x4A10 := by decide

theorem test_decode_families5to7 :
    decode 0x5127 = .seReg 1 2 7 ∧ decode 0x6A55 = .ldImm 10 0x55 ∧ decode 0x7F01 = .addImm 15 0x01 := by decide

theorem test_encode_families5to7 :
    encode (.seReg 1 2 7) = 0x5127 ∧ encode (.ldImm 10 0x55) = 0x6A55 ∧ encode (.addImm 15 0x01) = 0x7F01 := by decide

theorem test_decode_family8_logic :
    decode 0x8AB0 = .ldReg 10 11 ∧ decode 0x8AB1 = .orReg 10 11 ∧ decode 0x8AB2 = .andReg 10 11 ∧
    decode 0x8AB3 = .xorReg 10 11 := by decide

theorem test_encode_family8_logic :
    encode (.ldReg 10 11) = 0x8AB0 ∧ encode (.orReg 10 11) = 0x8AB1 ∧ encode (.andReg 10 11) = 0x8AB2 ∧
    encode (.xorReg 10 11) = 0x8AB3 := by decide

theorem test_decode_family8_arith :
    decode 0x8F14 = .addReg 15 1 ∧ decode 0x81F5 = .subReg 1 15 ∧ decode 0x8126 = .shr 1 2 ∧
    decode 0x8127 = .subn 1 2 ∧ decode 0x8FFE = .shl 15 15 ∧ decode 0x8ABD = .nop 0x8ABD := by decide

theorem test_encode_family8_arith :
    encode (.addReg 15 1) = 0x8F14 ∧ encode (.subReg 1 15) = 0x81F5 ∧ encode (.shr 1 2) = 0x8126 ∧
    encode (.subn 1 2) = 0x8127 ∧ encode (.shl 15 15) = 0x8FFE ∧ encode (.nop 0x8ABD) = 0x8ABD := by decide

theorem test_decode_families9toD :
    decode 0x912F = .sneReg 1 2 15 ∧ decode 0xAFFF = .ldI 0xFFF ∧ decode 0xB200 = .jpV0 0x200 ∧
    decode 0xC1F0 = .rnd 1 0xF0 ∧ decode 0xDF21 = .drw 15 2 1 := by decide

theorem test_encode_families9toD :
    encode (.sneReg 1 2 15) = 0x912F ∧ encode (.ldI 0xFFF) = 0xAFFF ∧ encode (.jpV0 0x200) = 0xB200 ∧
    encode (.rnd 1 0xF0) = 0xC1F0 ∧ encode (.drw 15 2 1) = 0xDF21 := by decide

theorem test_decode_familyE :
    decode 0xE19E = .skp 1 ∧ decode 0xE1A1 = .sknp 1 ∧ decode 0xE09F = .nop 0xE09F := by decide

theorem test_encode_familyE :
    encode (.skp 1) = 0xE19E ∧ encode (.sknp 1) = 0xE1A1 ∧ encode (.nop 0xE09F) = 0xE09F := by decide

theorem test_decode_familyF_timers :
    decode 0xF107 = .ldVxDT 1 ∧ decode 0xF30A = .ldVxK 3 ∧ decode 0xF115 = .ldDTVx 1 ∧
    decode 0xF218 = .ldSTVx 2 := by decide

theorem test_encode_familyF_timers :
    encode (.ldVxDT 1) = 0xF107 ∧ encode (.ldVxK 3) = 0xF30A ∧ encode (.ldDTVx 1) = 0xF115 ∧
    encode (.ldSTVx 2) = 0xF218 := by decide

theorem test_decode_familyF_memory :
    decode 0xF11E = .addI 1 ∧ decode 0xF129 = .ldF 1 ∧ decode 0xFA33 = .ldB 10 ∧ decode 0xFF55 = .stRegs 15 ∧
    decode 0xF265 = .ldRegs 2 ∧ decode 0xF456 = .nop 0xF456 := by decide

theorem test_encode_familyF_memory :
    encode (.addI 1) = 0xF11E ∧ encode (.ldF 1) = 0xF129 ∧ encode (.ldB 10) = 0xFA33 ∧ encode (.stRegs 15) = 0xFF55 ∧
    encode (.ldRegs 2) = 0xF265 ∧ encode (.nop 0xF456) = 0xF456 := by decide

/-- Big-endian: the byte at the lower address is the high byte; one byte is no instruction. -/
theorem test_decodeBytes :
    decodeBytes [0xA2, 0x0E, 0x60] = .ok (.ldI 0x20E, [0x60]) ∧ decodeBytes [0xA2] = .error .truncated ∧
    decodeBytes [] = .error .truncated := by decide

theorem test_decodeTableWord :
    decodeTableWord 16 0xA20E = some (.ldI 0x20E) ∧ decodeTableWord 16 0x8128 = some (.nop 0x8128) := by decide

/-! ## One step of each instruction -/

/-- S10. -/
theorem test_nop :
    after (run 0x8128 (regs 1 2 3)) (fun t => (t.reg 1, t.reg VF, t.pc)) = some (1, 3, 0x202) := by decide

/-- V-C7. -/
theorem test_ret :
    after (run 0x00EE ((entry.setSp 2).setEntry 1 0x0ABC)) (fun t => (t.sp, t.pc, t.stack.get 1)) = some (1, 0xABC, 0xABC) := by decide

/-- V-C6. -/
theorem test_ret_underflow :
    after (run 0x00EE entry) (fun t => (t.run, t.pc)) = some (.faulted .stackUnderflow 0, 0x202) := by decide

/-- V-C1, V-C2. -/
theorem test_jp :
    after (run 0x1ABC entry) (·.pc) = some 0xABC ∧
    after (run 0x1203 entry) (·.pc) = some 0x203 := by decide

/-- V-C3, V-C4. -/
theorem test_call :
    after (run 0x2ABC entry) (fun t => (t.stack.get 0, t.sp, t.pc)) = some (0x202, 1, 0xABC) ∧
    after (run 0x2300 ((entry.setSp 15).setPc 0x250)) (fun t => (t.stack.get 15, t.sp, t.pc)) = some (0x250, 16, 0x300) := by decide

/-- V-C5. -/
theorem test_call_overflow :
    after (run 0x2300 ((entry.setSp 16).setPc 0x250)) (fun t => (t.run, t.sp, t.pc)) = some (.faulted .stackOverflow 0x250, 16, 0x250) := by decide

/-- V-C8, V-C9. -/
theorem test_seImm :
    after (run 0x3542 (entry.setReg 5 0x42)) (·.pc) = some 0x204 ∧
    after (run 0x3543 (entry.setReg 5 0x42)) (·.pc) = some 0x202 := by decide

/-- V-C19. -/
theorem test_seImm_wraps :
    after (run 0x3501 ((entry.setReg 5 1).setPc 0xFFFE)) (·.pc) = some 0x0000 := by decide

/-- V-C10, V-C11. -/
theorem test_sneImm :
    after (run 0x4542 (entry.setReg 5 0x42)) (·.pc) = some 0x202 ∧
    after (run 0x4543 (entry.setReg 5 0x42)) (·.pc) = some 0x204 := by decide

/-- V-C12, V-C13, V-C14. -/
theorem test_seReg :
    after (run 0x5120 (regs 9 9 0)) (·.pc) = some 0x204 ∧
    after (run 0x5120 (regs 9 8 0)) (·.pc) = some 0x202 ∧
    after (run 0x5127 (regs 9 9 0)) (·.pc) = some 0x204 := by decide

/-- V-C15, V-C16. -/
theorem test_sneReg :
    after (run 0x9120 (regs 9 8 0)) (·.pc) = some 0x204 ∧
    after (run 0x9110 (regs 9 8 0)) (·.pc) = some 0x202 := by decide

/-- V-C17, V-C18. -/
theorem test_jpV0 :
    after (run 0xBFFF (entry.setReg 0 0xFF)) (·.pc) = some 0x10FE ∧
    after (run 0xB200 (entry.setReg 0 0x10)) (·.pc) = some 0x210 := by decide

/-- S11, V-A1. -/
theorem test_ldImm :
    after (run 0x6A55 entry) (·.reg 10) = some 0x55 ∧
    after (run 0x6F07 entry) (·.reg VF) = some 0x07 := by decide

/-- S1, V-A2. -/
theorem test_addImm :
    after (run 0x7101 (regs 0xFF 0 0)) (fun t => (t.reg 1, t.reg VF)) = some (0, 0) ∧
    after (run 0x7120 (regs 0x10 0 0xAB)) (fun t => (t.reg 1, t.reg VF)) = some (0x30, 0xAB) ∧
    after (run 0x7F01 (regs 0 0 0xFF)) (·.reg VF) = some 0 := by decide

/-- V-A3. -/
theorem test_ldReg :
    after (run 0x8120 (regs 1 0xAA 7)) (fun t => (t.reg 1, t.reg VF)) = some (0xAA, 7) := by decide

/-- V-A4. -/
theorem test_orReg :
    after (run 0x8121 (regs 0x55 0xAA 7)) (fun t => (t.reg 1, t.reg VF)) = some (0xFF, 7) := by decide

/-- V-A5. -/
theorem test_andReg :
    after (run 0x8122 (regs 0x5F 0xF5 7)) (fun t => (t.reg 1, t.reg VF)) = some (0x55, 7) := by decide

/-- V-A6. -/
theorem test_xorReg :
    after (run 0x8113 (regs 0x5A 0 7)) (fun t => (t.reg 1, t.reg VF)) = some (0, 7) := by decide

/-- S2, V-A8, V-A9. -/
theorem test_addReg :
    after (run 0x8124 (regs 0xFF 1 0)) (fun t => (t.reg 1, t.reg VF)) = some (0, 1) ∧
    after (run 0x8124 (regs 0x7F 0x80 1)) (fun t => (t.reg 1, t.reg VF)) = some (0xFF, 0) ∧
    after (run 0x8114 (regs 0xC1 0 0)) (fun t => (t.reg 1, t.reg VF)) = some (0x82, 1) := by decide

/-- V-A10, V-A11, V-A12. -/
theorem test_addReg_flag_wins :
    after (run 0x8F14 (regs 1 0 0xFF)) (fun t => (t.reg 1, t.reg VF)) = some (1, 1) ∧
    after (run 0x8F14 (regs 0x20 0 0x10)) (fun t => (t.reg 1, t.reg VF)) = some (0x20, 0) ∧
    after (run 0x81F4 (regs 0x10 0 0x20)) (fun t => (t.reg 1, t.reg VF)) = some (0x30, 0) := by decide

/-- S3, V-A14. -/
theorem test_subReg :
    after (run 0x8125 (regs 5 3 0)) (fun t => (t.reg 1, t.reg VF)) = some (2, 1) ∧
    after (run 0x8125 (regs 3 5 1)) (fun t => (t.reg 1, t.reg VF)) = some (0xFE, 0) ∧
    after (run 0x8125 (regs 7 7 1)) (fun t => (t.reg 1, t.reg VF)) = some (0, 0) := by decide

/-- V-A17, V-A18. -/
theorem test_subReg_flag_wins :
    after (run 0x8F15 (regs 3 0 5)) (fun t => (t.reg 1, t.reg VF)) = some (3, 1) ∧
    after (run 0x81F5 (regs 5 0 3)) (fun t => (t.reg 1, t.reg VF)) = some (2, 1) := by decide

/-- S4, V-A20. -/
theorem test_shr :
    after (run 0x8106 (regs 3 0 0)) (fun t => (t.reg 1, t.reg VF)) = some (1, 1) ∧
    after (run 0x8126 (regs 1 0xF0 0)) (fun t => (t.reg 1, t.reg 2, t.reg VF)) = some (0, 0xF0, 1) := by decide

/-- V-A21, V-A22. -/
theorem test_shr_flag_wins :
    after (run 0x8FF6 (regs 0 0 2)) (·.reg VF) = some 0 ∧
    after (run 0x8FF6 (regs 0 0 3)) (·.reg VF) = some 1 := by decide

/-- V-A23, V-A24, V-A25. -/
theorem test_subn :
    after (run 0x8127 (regs 3 5 0)) (fun t => (t.reg 1, t.reg VF)) = some (2, 1) ∧
    after (run 0x8127 (regs 5 3 1)) (fun t => (t.reg 1, t.reg VF)) = some (0xFE, 0) ∧
    after (run 0x8127 (regs 9 9 1)) (fun t => (t.reg 1, t.reg VF)) = some (0, 0) := by decide

/-- V-A26, V-A27. -/
theorem test_shl :
    after (run 0x810E (regs 0x7F 0 1)) (fun t => (t.reg 1, t.reg VF)) = some (0xFE, 0) ∧
    after (run 0x810E (regs 0xFF 0 0)) (fun t => (t.reg 1, t.reg VF)) = some (0xFE, 1) := by decide

/-- V-A28, V-A29. -/
theorem test_shl_flag_wins :
    after (run 0x8FFE (regs 0 0 0x40)) (·.reg VF) = some 0 ∧
    after (run 0x8FFE (regs 0 0 0x80)) (·.reg VF) = some 1 := by decide

/-- V-M1. -/
theorem test_ldI :
    after (run 0xAFFF entry) (·.i) = some 0xFFF := by decide

/-- V-M2, V-M3. -/
theorem test_addI :
    after (run 0xF11E ((regs 0xFF 0 0).setI 0xFFF)) (fun t => (t.i, t.reg VF)) = some (0x10FE, 0) ∧
    after (run 0xF11E ((regs 1 0 0).setI 0xFFFF)) (·.i) = some 0 := by decide

/-- V-M4, V-M5. -/
theorem test_ldF :
    after (run 0xF129 (regs 0x0F 0 0)) (·.i) = some 0x4B ∧
    after (run 0xF129 (regs 0xFF 0 0)) (·.i) = some 0x4FB := by decide

/-- S8, V-M9, V-M10. -/
theorem test_ldB :
    after (run 0xF033 ((index 0x300).setReg 0 234)) (·.bytesAt 0x300 3) = some [2, 3, 4] ∧
    after (run 0xF133 ((regs 109 0 0).setI 0x300)) (·.bytesAt 0x300 3) = some [1, 0, 9] ∧
    after (run 0xF133 ((regs 7 0 0).setI 0xFFD)) (·.bytesAt 0xFFD 3) = some [0, 0, 7] := by decide

/-- V-M11. -/
theorem test_ldB_range :
    after (run 0xF133 ((regs 7 0 0).setI 0xFFE)) (fun t => (t.run, t.mem)) = some (.faulted .memRange 0x1000, []) := by decide

/-- V-M12, V-M20. -/
theorem test_stRegs :
    after (run 0xF055 ((index 0xFFF).setReg 0 0xAB)) (fun t => (t.byteAt 0xFFF, t.i)) = some (0xAB, 0xFFF) ∧
    after (run 0xF055 ((index 0).setReg 0 0x99)) (fun t => (t.byteAt 0, t.byteAt 1)) = some (0x99, 0x90) := by decide

/-- V-M13. -/
theorem test_stRegs_range :
    after (run 0xF155 ((index 0xFFF).setReg 0 0xAB)) (fun t => (t.run, t.mem)) = some (.faulted .memRange 0x1000, []) := by decide

/-- V-M16. -/
theorem test_ldRegs :
    after (run 0xF165 (((index 0x400).setBytes 0x400 [9, 8, 7]).setReg 2 0x55)) (fun t => (t.reg 0, t.reg 1, t.reg 2, t.i)) = some (9, 8, 0x55, 0x400) := by decide

/-- V-M17, V-M19. -/
theorem test_ldRegs_range :
    after (run 0xF065 (index 0x1000)) (·.run) = some (.faulted .memRange 0x1000) ∧
    after (run 0xF165 (index 0xFFFF)) (fun t => (t.run, t.reg 0)) = some (.faulted .memRange 0xFFFF, 0) := by decide

/-- V-D12. -/
theorem test_cls :
    after (run 0x00E0 (corner (regs 0 0 1))) (fun t => (t.pixel 0 0, t.pixel 5 5, t.reg VF)) = some (false, false, 1) := by decide

/-- V-D1, V-D2. -/
theorem test_drw_wraps :
    after (run 0xD121 (sprite 60 0 [0xFF])) (fun t => ([59, 60, 63, 0, 3, 4].map (t.pixel · 0), t.reg VF)) = some ([false, true, true, true, true, false], 0) ∧
    after (run 0xD122 (sprite 0 31 [0x80, 0x80])) (fun t => (t.pixel 0 31, t.pixel 0 0, t.pixel 1 0)) = some (true, true, false) := by decide

/-- V-D5, V-D6, V-D7, V-D10. -/
theorem test_drw_collides :
    after (run 0xD121 (corner (sprite 0 0 [0xC0]))) (fun t => (t.pixel 0 0, t.pixel 1 0, t.reg VF)) = some (false, true, 1) ∧
    after (run 0xD121 (corner (sprite 0 0 [0x40]))) (fun t => (t.pixel 0 0, t.pixel 1 0, t.reg VF)) = some (true, true, 0) ∧
    after (run 0xD120 ((regs 0 0 1).setI 0xFFFF)) (fun t => (t.run, t.reg VF)) = some (.running, 0) ∧
    after (run 0xD122 ((regs 0 0 1).setI 0xFFF)) (fun t => (t.run, t.reg VF)) = some (.faulted .memRange 0x1000, 1) := by decide

/-- V-K1, V-K2. -/
theorem test_skp :
    after (run 0xE19E ((regs 15 0 0).setKey 15 true)) (·.pc) = some 0x204 ∧
    after (run 0xE19E (regs 15 0 0)) (·.pc) = some 0x202 := by decide

/-- V-K5. -/
theorem test_skp_key_index :
    after (run 0xE19E (regs 0x10 0 0)) (fun t => (t.run, t.pc)) = some (.faulted .keyIndex 0x10, 0x202) := by decide

/-- V-K3, V-K4. -/
theorem test_sknp :
    after (run 0xE1A1 entry) (·.pc) = some 0x204 ∧
    after (run 0xE1A1 (entry.setKey 0 true)) (·.pc) = some 0x202 := by decide

/-- V-K6. -/
theorem test_sknp_key_index :
    after (run 0xE1A1 (regs 0xFF 0 0)) (·.run) = some (.faulted .keyIndex 0xFF) := by decide

/-- V-K7. -/
theorem test_ldVxK :
    after (run 0xF30A (entry.setKey 4 true)) (fun t => (t.run, t.pc, t.reg 3)) = some (.awaitingKey 3, 0x202, 0) := by decide

/-- V-T1. -/
theorem test_ldDTVx :
    after (run 0xF115 (regs 0xFF 0 0)) (fun t => (t.dt, t.st)) = some (0xFF, 0) := by decide

/-- V-T2. -/
theorem test_ldSTVx :
    after (run 0xF118 (regs 2 0 0)) (fun t => (t.st, t.dt)) = some (2, 0) := by decide

/-- V-T3. -/
theorem test_ldVxDT :
    after (run 0xF107 (entry.setDT 0x2A)) (fun t => (t.reg 1, t.dt)) = some (0x2A, 0x2A) := by decide

/-- V-T8: with no bit in `kk` the result is 0, whatever is drawn; each draw moves the counter on. -/
theorem test_rnd_masks : after (run 0xC100 entry) (fun t => (t.reg 1, t.draws)) = some (0, 1) := by
  simp [after, run, exec, execRnd, decode, fieldOp, fieldX, fieldKK, State.draw8]
  decide

/-- V-T9: with every bit in `kk` the result is the byte drawn. -/
theorem test_rnd_keeps : after (run 0xC1FF entry) (fun t => t.reg 1) = some (Config.drawByte 0) := by
  show some (Config.drawByte 0 &&& BitVec.allOnes 8) = _
  rw [BitVec.and_allOnes]

/-! ## The Step and the host's events -/

/-- The model runs a word placed where it fetches next, from reset. -/
theorem test_withFetchWord : after (step (State.reset.withFetchWord 16 0x6A55)) (fun t => (t.reg 10, t.pc)) = some (0x55, 0x202) := by
  decide

/-- V-C20, V-C21: the fetch at the end of memory. -/
theorem test_fetch_range :
    after (step (entry.setPc 0xFFF)) (fun t => (t.run, t.pc)) = some (.faulted .memRange 0x1000, 0xFFF) ∧
    after (step (entry.setPc 0xFFE)) (fun t => (t.run, t.pc)) = some (.running, 0x1000) := by decide

/-- V-K13: no Step is enabled during a wait; none before a Load. -/
theorem test_step_not_enabled :
    step (waiting 3) = .fault (.awaitingKey 3) ∧ step State.reset = .refused .stepBeforeLoad := ⟨rfl, rfl⟩

/-- V-K8 to V-K10. -/
theorem test_keyPress :
    after (step ((waiting 3).setSchedule [.keyPress none])) (fun t => (t.run, t.reg 3)) = some (.awaitingKey 3, 0) ∧
    after (step ((waiting 3).setSchedule [.keyPress (some 4)])) (fun t => (t.run, t.reg 3, t.keys.get 4)) =
      some (.running, 4, false) ∧
    after (step (entry.setSchedule [.keyPress (some 4)])) (fun t => (t.run, t.reg 4)) = some (.running, 0) := by decide

/-- V-K11. -/
theorem test_keySet :
    after (step ((waiting 3).setSchedule [.keySet 9 true])) (fun t => (t.run, t.keys.get 9, t.keys.get 8)) =
      some (.awaitingKey 3, true, false) := by decide

/-- V-T4, V-T5, V-T7. -/
theorem test_tick :
    after (step ((entry.setDT 2).setSchedule [.tick])) (fun t => (t.dt, t.st)) = some (1, 0) ∧
    after (step ((entry.setST 1).setSchedule [.tick])) (fun t => (t.dt, t.st)) = some (0, 0) ∧
    after (step (((waiting 1).setDT 9).setSchedule [.tick])) (fun t => (t.dt, t.run)) = some (8, .awaitingKey 1) := by decide

/-- 90_conflicts.md C9: in Faulted the events are taken and have no effect. -/
theorem test_events_in_faulted :
    step ((gone.setDT 2).setSchedule [.tick]) = .next (gone.setDT 2) ∧
    step (gone.setSchedule [.keySet 9 true]) = .next gone ∧ step (gone.setSchedule [.keyPress (some 4)]) = .next gone :=
  ⟨rfl, rfl, rfl⟩

/-- 70_reset_and_hazards.md R193: after an event a Load is no longer directly after Reset, after another Reset it is again. -/
theorem test_boot_order :
    after (step (State.reset.setSchedule [.tick])) (·.boot) = some .unloaded ∧
    after (step (State.reset.setSchedule [.keySet 9 true])) (·.boot) = some .unloaded ∧
    after (step (State.reset.setSchedule [.keyPress none])) (·.boot) = some .unloaded ∧
    after (step (entry.setSchedule [.tick])) (·.boot) = some .loaded ∧
    after (step (entry.setSchedule [.reset])) (·.boot) = some .afterReset := by decide

/-- V-R2. -/
theorem test_load :
    after (step (State.reset.setSchedule [.load [0x12, 0x00]])) (fun t => (t.byteAt 0x200, t.byteAt 0x201, t.pc, t.run)) =
      some (0x12, 0x00, 0x200, .running) := by decide

/-- V-R1. -/
theorem test_reset :
    after (step (((regs 1 2 3).raise .memRange 0x1000).setSchedule [.reset]))
      (fun t => (t.bytesAt 0 5, t.bytesAt 0x4B 6, t.run, t.reg 1, t.pc)) =
      some ([0xF0, 0x90, 0x90, 0x90, 0xF0], [0xF0, 0x80, 0xF0, 0x80, 0x80, 0], .running, 0, 0) := by decide

/-! ## Witnesses: the hypotheses of every statement can be met -/

/-- For the statements whose one hypothesis is that RUN is Running: NopChangesNothing, JpSetsThePc, ImmediateSkips,
RegisterSkips, IndexedJumpAddsV0, LdImmWritesTheImmediate, AddImmWrapsWithoutAFlag, LdRegCopies, BitwiseOperationsSetNoFlag,
AddRegSetsTheCarry, SubRegSetsTheStrictFlag, SubnSetsTheStrictFlag, ShiftsMoveOneBitIntoTheFlag, LdIWritesTheAddress, IndexArithmetic,
ClsUnsetsEveryPixel, KeyWaitSuspendsTheEngine, TimerTransfers, RndMasksAFreeByte. -/
theorem witness_running : entry.run = .running := rfl

theorem witness_DecodeOfEncodeIsTheInstruction :
    (Instr.drw 15 2 15).wellFormed = true ∧ (Instr.nop 0x8128).wellFormed = true := by decide

theorem witness_NopChangesNothing_unmatched :
    Unmatched 0x00E1 ∧ Unmatched 0x8128 ∧ Unmatched 0xE09F ∧ Unmatched 0xFFFF ∧ ¬ Unmatched 0x00E0 ∧ ¬ Unmatched 0xFF65 := by
  simp [Unmatched]

theorem witness_StepRunsTheDecodedInstruction :
    let s := (entry.setBytes 0xFFE [0x6A, 0x55]).setPc 0xFFE
    s.run = .running ∧ s.boot = .loaded ∧ s.pc.toNat ≤ 0xFFE ∧
    (0x6A55 : Word).toNat = (s.byteAt s.pc.toNat).toNat * 256 + (s.byteAt (s.pc.toNat + 1)).toNat ∧
    decode 0x6A55 = .ldImm 10 0x55 ∧ s.schedule = [] ∧ (s.setSchedule [.step]).schedule = .step :: [] := by decide

/-- Both values of the recorded address: at 0xFFF the lower byte of the fetch is still inside memory. Both schedules. -/
theorem witness_FetchBeyondMemoryFaults :
    let s := entry.setPc 0xFFF
    let u := (entry.setPc 0x1000).setSchedule [.step]
    (s.run = .running ∧ s.boot = .loaded ∧ 0xFFE < s.pc.toNat ∧ s.schedule = []) ∧
    (u.run = .running ∧ u.boot = .loaded ∧ 0xFFE < u.pc.toNat ∧ u.schedule = .step :: []) := by decide

theorem witness_StepThatIsNotEnabledStops :
    (waiting 3).schedule = [] ∧ (waiting 3).run = .awaitingKey 3 ∧
    gone.schedule = [] ∧ gone.run = .faulted .keyIndex 16 ∧
    State.reset.schedule = [] ∧ State.reset.run = .running ∧ State.reset.boot ≠ .loaded := by decide

theorem witness_TickCountsBothTimersDown :
    (entry.setSchedule [.tick]).schedule = .tick :: [] ∧ (∀ c n, (entry.setSchedule [.tick]).run ≠ .faulted c n) ∧
    (gone.setSchedule [.tick]).schedule = .tick :: [] ∧ (gone.setSchedule [.tick]).run = .faulted .keyIndex 16 :=
  ⟨rfl, fun _ _ h => by (cases h), rfl, rfl⟩

theorem witness_KeySetWritesOneKeyBit :
    ((waiting 3).setSchedule [.keySet 9 true]).schedule = .keySet 9 true :: [] ∧
    (∀ c n, ((waiting 3).setSchedule [.keySet 9 true]).run ≠ .faulted c n) ∧
    (gone.setSchedule [.keySet 15 true]).schedule = .keySet 15 true :: [] ∧
    (gone.setSchedule [.keySet 15 true]).run = .faulted .keyIndex 16 :=
  ⟨rfl, fun _ _ h => by (cases h), rfl, rfl⟩

theorem witness_MappedKeyPressEndsTheWait :
    ((waiting 15).setSchedule [.keyPress (some 0)]).schedule = .keyPress (some 0) :: [] ∧
    ((waiting 15).setSchedule [.keyPress (some 0)]).run = .awaitingKey 15 := ⟨rfl, rfl⟩

/-- Both grounds for no change, outside Faulted and in it. -/
theorem witness_OtherKeyPressesChangeNothing :
    ((waiting 3).setSchedule [.keyPress none]).schedule = .keyPress none :: [] ∧
    (entry.setSchedule [.keyPress (some 4)]).schedule = .keyPress (some 4) :: [] ∧
    (∀ x, (entry.setSchedule [.keyPress (some 4)]).run ≠ .awaitingKey x) ∧
    (∀ c n, (entry.setSchedule [.keyPress (some 4)]).run ≠ .faulted c n) ∧
    (gone.setSchedule [.keyPress (some 4)]).schedule = .keyPress (some 4) :: [] ∧
    (∀ x, (gone.setSchedule [.keyPress (some 4)]).run ≠ .awaitingKey x) ∧
    (gone.setSchedule [.keyPress (some 4)]).run = .faulted .keyIndex 16 :=
  ⟨rfl, rfl, fun _ h => by (cases h), fun _ _ h => by (cases h), rfl, fun _ h => by (cases h), rfl⟩

theorem witness_LoadPlacesTheProgram :
    let s := State.reset.setSchedule [.load (List.replicate 3583 0)]
    s.schedule = .load (List.replicate 3583 0) :: [] ∧ s.run = .running ∧ s.boot = .afterReset ∧
    (List.replicate 3583 (0 : Byte)).length ≤ 3583 := ⟨rfl, rfl, rfl, Nat.le_of_eq List.length_replicate⟩

/-- Each of the two clauses at its boundary. -/
theorem witness_LoadTooLargeIsRejected :
    let s := State.reset.setSchedule [.load (List.replicate 3583 0)]
    let u := State.reset.setSchedule [.load (List.replicate 3584 0)]
    (s.schedule = .load (List.replicate 3583 0) :: [] ∧ s.run = .running ∧ s.boot = .afterReset ∧
      (List.replicate 3583 (0 : Byte)).length + 0x200 < 4096) ∧
    (u.schedule = .load (List.replicate 3584 0) :: [] ∧ u.run = .running ∧ u.boot = .afterReset ∧
      4096 ≤ (List.replicate 3584 (0 : Byte)).length + 0x200) :=
  ⟨⟨rfl, rfl, rfl, by rw [List.length_replicate]; omega⟩, rfl, rfl, rfl, by rw [List.length_replicate]⟩

theorem witness_LateLoadIsRefused :
    (entry.setSchedule [.load []]).schedule = .load [] :: [] ∧ (entry.setSchedule [.load []]).boot ≠ .afterReset ∧
    ((waiting 3).setSchedule [.load []]).run ≠ .running := by decide

/-- For ResetRestoresEveryPieceOfState and ResetReopensTheLoad. -/
theorem witness_ResetRestoresEveryPieceOfState :
    ((entry.raise .memRange 0x1000).setSchedule [.reset]).schedule = .reset :: [] := rfl

/-- Each of the two clauses: an empty stack, a stack of one and a full one. -/
theorem witness_RetPopsThePc :
    entry.run = .running ∧ entry.sp = 0 ∧ (entry.setSp 1).run = .running ∧ (entry.setSp 1).sp.toNat = (0 : Fin 16).val + 1 ∧
    (entry.setSp 16).sp.toNat = (15 : Fin 16).val + 1 := by decide

/-- Each of the two clauses: a full stack, an empty one and one with a slot left. -/
theorem witness_CallPushesThePc :
    (entry.setSp 16).run = .running ∧ (entry.setSp 16).sp = 16 ∧ entry.sp.toNat = (0 : Fin 16).val ∧
    (entry.setSp 15).run = .running ∧ (entry.setSp 15).sp.toNat = (15 : Fin 16).val := by decide

theorem witness_CallThenRetReturns : (entry.setSp 15).run = .running ∧ (entry.setSp 15).sp.toNat < 16 := by decide

/-- Each of the two clauses at its boundary. -/
theorem witness_LdBStoresTheDigits :
    (index 0xFFE).run = .running ∧ (index 0xFFE).i.toNat + 2 > 0xFFF ∧
    (index 0xFFD).run = .running ∧ (index 0xFFD).i.toNat + 2 ≤ 0xFFF := by decide

/-- Each of the two clauses at its boundary, with one register and with all. -/
theorem witness_StRegsStoresTheBlock :
    (index 0x1000).run = .running ∧ (index 0x1000).i.toNat + (0 : Reg).val > 0xFFF ∧
    (index 0xFF1).i.toNat + (15 : Reg).val > 0xFFF ∧
    (index 0xFFF).run = .running ∧ (index 0xFFF).i.toNat + (0 : Reg).val ≤ 0xFFF ∧
    (index 0xFF0).i.toNat + (15 : Reg).val ≤ 0xFFF := by decide

/-- Each of the two clauses at its boundary; the highest value of I. -/
theorem witness_LdRegsLoadsTheBlock :
    (index 0xFFFF).run = .running ∧ (index 0xFFFF).i.toNat + (1 : Reg).val > 0xFFF ∧
    (index 0xFF1).i.toNat + (15 : Reg).val > 0xFFF ∧
    (index 0xFF0).run = .running ∧ (index 0xFF0).i.toNat + (15 : Reg).val ≤ 0xFFF := by decide

theorem witness_StoredWordIsFetchedNext :
    let s := (((entry.setReg 0 0x12).setReg 1 0x08).setI 0x208).setPc 0x208
    s.run = .running ∧ s.boot = .loaded ∧ s.schedule = [] ∧ s.i.toNat + (1 : Reg).val ≤ 0xFFF ∧ (1 : Reg) ≤ 1 ∧
    (1 : Reg).val = (0 : Reg).val + 1 ∧ s.pc.toNat = s.i.toNat + (0 : Reg).val ∧
    (0x1208 : Word).toNat = (s.reg 0).toNat * 256 + (s.reg 1).toNat := by decide

/-- Each of the two clauses: a sprite that reaches above 0xFFF by one byte, one that ends there, and none. -/
theorem witness_DrwXorsTheSprite :
    (index 0xFFF).run = .running ∧ (2 : Nibble) ≠ 0 ∧ (index 0xFFF).i.toNat + (2 : Nibble).toNat - 1 > 0xFFF ∧
    (index 0xFFF).i.toNat + (1 : Nibble).toNat - 1 ≤ 0xFFF ∧ (index 0xFFFF).run = .running ∧ (0 : Nibble) = 0 := by decide

/-- P3: the first draw sets a pixel and leaves its own coordinates. -/
theorem witness_DrawingTwiceRestoresTheScreen :
    (sprite 62 31 [0x80]).run = .running ∧ (sprite 62 31 [0x80]).i.toNat + (1 : Nibble).toNat - 1 ≤ 0xFFF ∧
    ∃ t, exec (.drw 1 2 1) (sprite 62 31 [0x80]) = .next t ∧ t.reg 1 = (sprite 62 31 [0x80]).reg 1 ∧
      t.reg 2 = (sprite 62 31 [0x80]).reg 2 :=
  ⟨rfl, by decide, _, rfl, by decide, by decide⟩

/-- Each of the two clauses at its boundary. -/
theorem witness_KeyTestsSkip :
    (regs 16 0 0).run = .running ∧ ((regs 16 0 0).reg 1).toNat > 15 ∧
    (regs 15 0 0).run = .running ∧ ((regs 15 0 0).reg 1).toNat = (15 : Fin 16).val := by decide

theorem witness_OnlyAKeyOrResetEndsTheWait :
    ((waiting 3).setSchedule [.tick]).run = .awaitingKey 3 ∧ ∃ t, step ((waiting 3).setSchedule [.tick]) = .next t :=
  ⟨rfl, _, rfl⟩

theorem reset_asReset : Safety.AsReset State.reset where
  regs := by decide
  pc := rfl
  i := rfl
  sp := rfl
  stack := by decide
  timers := ⟨rfl, rfl⟩
  screen := pixelAt_blankScreen
  memory := rfl
  run := .inl rfl

/-- A state with a Load ordered next meets the invariant, and its step answers a next state. -/
theorem witness_EveryStepKeepsTheInvariant :
    Safety.Inv (State.reset.setSchedule [.load [0x12, 0x00]]) ∧
    ∃ t, step (State.reset.setSchedule [.load [0x12, 0x00]]) = .next t := by
  refine ⟨⟨Memory.wf_nil, by decide, by decide, by decide, trivial, fun _ => ?_⟩, _, rfl⟩
  obtain ⟨a, b, c, d, e, f, g, h, i⟩ := reset_asReset
  exact ⟨a, b, c, d, e, f, g, h, i⟩

theorem witness_OnlyResetLeavesFaulted :
    (gone.setSchedule [.tick]).run = .faulted .keyIndex 16 ∧
    ∃ t, step (gone.setSchedule [.tick]) = .next t := ⟨rfl, _, rfl⟩

/-- For FaultsArePrecise and OnlyTheListedFaultsOccur: an instruction that ends in each fault it may raise. -/
theorem witness_FaultsArePrecise :
    entry.run = .running ∧ (∃ t, exec .ret entry = .next t ∧ t.run = .faulted .stackUnderflow 0) ∧
    (∃ t, exec (.call 0) (entry.setSp 16) = .next t ∧ t.run = .faulted .stackOverflow 0x202) ∧
    (∃ t, exec (.ldB 1) (index 0xFFE) = .next t ∧ t.run = .faulted .memRange 0x1000) ∧
    ∃ t, exec (.skp 1) (regs 16 0 0) = .next t ∧ t.run = .faulted .keyIndex 16 :=
  ⟨rfl, ⟨_, rfl, rfl⟩, ⟨_, rfl, rfl⟩, ⟨_, rfl, rfl⟩, _, rfl, rfl⟩

/-- For StateIsWrittenOnlyAsNamed and RegistersAreWrittenOnlyAsNamed: a register no operand names stays, a flag is left. -/
theorem witness_RegistersAreWrittenOnlyAsNamed :
    entry.run = .running ∧ (∃ t, exec (.addReg 1 2) entry = .next t ∧ t.run = .running) ∧
    ¬ namesDestination 2 (.addReg 1 2) ∧ (2 : Reg) ≠ VF ∧ writesFlag (.addReg 1 2) = true :=
  ⟨rfl, ⟨_, rfl, rfl⟩, by simp [namesDestination], by decide, rfl⟩

theorem witness_NoInstructionReadsTheSoundTimer : ∀ x, Instr.ldVxDT 1 ≠ .ldSTVx x := by simp

/-- Each of the two clauses: a key test that answers a next state, and an instruction that is none. -/
theorem witness_OnlyTheKeyTestsReadTheKeys :
    (∃ t, exec (.skp 1) (regs 15 0 0) = .next t) ∧ ∀ x, Instr.ldVxK 1 ≠ .skp x ∧ Instr.ldVxK 1 ≠ .sknp x :=
  ⟨⟨_, rfl⟩, by simp⟩

theorem witness_ExecuteIsTotal : (entry.setSp 16).run = .running ∧ (entry.setSp 16).sp.toNat ≤ 16 := by decide

theorem witness_SelfJumpIsIdle :
    let s := (entry.setBytes 0x202 [0x12, 0x02])
    s.boot = .loaded ∧ s.schedule = [] ∧ Safety.selfJump s = true := by decide

end Sys2Proof.Tests
end

section
/-!
The words of the register-to-register family and the frame of a register write, and with them the statements about LD with
an immediate, ADD and SUB (41_alu.md R100, R106, R107).
-/

namespace Sys2Proof.Claim

open Sys2Proof.Machine

/-! ## Words given as numbers (30_encoding.md R61) -/

/-- `IsWord` speaks of a number; decoding is stated of the formats of 30_encoding.md R62, which have numbers of their own. -/
theorem isWord_of_toNat {n : Nat} {w : Word} {i : Instr} (hn : w.toNat = n) (hd : decode w = i) : IsWord n i := by
  rw [IsWord, ← hn, BitVec.ofNat_toNat, BitVec.setWidth_eq, hd]

theorem decode_formatXK_6 (x : Reg) (kk : Byte) : decode (formatXK 6 x kk) = .ldImm x kk := by
  simp [decode]

theorem decode_formatXY_8 (x y : Reg) (n : Nibble) : decode (formatXY 8 x y n) = decodeFamily8 (formatXY 8 x y n) := by
  simp [decode]

theorem isWord_ldImm (x : Reg) (kk : Byte) : IsWord (0x6000 + x.val * 256 + kk.toNat) (.ldImm x kk) :=
  isWord_of_toNat (formatXK_toNat 6 x kk) (decode_formatXK_6 x kk)

/-- A word of family 8, its last nibble `n` given apart, selects what the sub-dispatch of 30_encoding.md R67 selects. -/
theorem isWord_family8 {x y : Reg} {i : Instr} (n : Nibble) (hi : decodeFamily8 (formatXY 8 x y n) = i) :
    IsWord (0x8000 + n.toNat + x.val * 256 + y.val * 16) i := by
  refine isWord_of_toNat (w := formatXY 8 x y n) ?_ ((decode_formatXY_8 x y n).trans hi)
  have op : (8 : Nibble).toNat = 8 := rfl
  rw [formatXY_toNat, op]
  omega

theorem isWord_addReg (x y : Reg) : IsWord (0x8004 + x.val * 256 + y.val * 16) (.addReg x y) :=
  isWord_family8 4 (by simp [decodeFamily8])

theorem isWord_subReg (x y : Reg) : IsWord (0x8005 + x.val * 256 + y.val * 16) (.subReg x y) :=
  isWord_family8 5 (by simp [decodeFamily8])

/-! ## Register writes and their frame -/

section
variable (s : State) (x y : Reg)

theorem onlyChanges_regs (v : Vector Byte 16) : OnlyChanges [.regs] s { s with v := v } := by
  refine ⟨⟨fun p hp => ?_, rfl⟩, rfl, rfl⟩
  cases p with
  | regs => simp at hp
  | stack => exact ⟨rfl, fun _ => rfl⟩
  | keys | memory => exact fun _ => rfl
  | screen => exact fun _ _ => rfl
  | pc | index | delay | sound | run | draws => rfl

theorem holdsResult_setReg {b : Byte} {result : Nat} (hb : b.toNat = result) :
    HoldsResult x result s (s.setReg x b) := by
  refine ⟨?_, fun r hr => ?_, onlyChanges_regs s _⟩
  · simpa using hb
  · simp [hr]

theorem flagByte_toNat (c : Bool) : (flagByte c).toNat = if c then 1 else 0 := by
  cases c <;> rfl

/-- The flag is written after the result, so VF holds the flag for `x = 0xF` too (10_state.md R22). -/
theorem holdsResultAndFlag_setResult {b : Byte} {result : Nat} {flag : Prop} [Decidable flag] (hb : b.toNat = result) :
    HoldsResultAndFlag x result flag s (s.setResult x b (decide flag)) := by
  refine ⟨?_, fun hx => ?_, fun r hr hf => ?_, onlyChanges_regs s _⟩
  · simp [flagByte_toNat]
  · simpa [hx] using hb
  · simp [hr, hf]

/-! ## The instructions -/

theorem exec_ldImm (kk : Byte) : exec (.ldImm x kk) s = .next (s.setReg x kk) := rfl

theorem exec_addReg : exec (.addReg x y) s =
    .next (s.setResult x (s.reg x + s.reg y) (decide ((s.reg x).toNat + (s.reg y).toNat > 255))) := rfl

theorem exec_subReg : exec (.subReg x y) s =
    .next (s.setResult x (s.reg x - s.reg y) (decide ((s.reg x).toNat > (s.reg y).toNat))) := rfl

/-- `BitVec.toNat_sub` in the spec's writing of a difference modulo 256 (41_alu.md R107, R109). -/
theorem byte_sub_toNat (a b : Byte) : (a - b).toNat = (256 + a.toNat - b.toNat) % 256 := by
  rw [BitVec.toNat_sub]
  omega

end

/-! ## The statements -/

/-- Settles O30: the operands are read before either write, and the flag is written last. -/
theorem addRegSetsTheCarry : Obligations.AddRegSetsTheCarry := fun s x y _ =>
  ⟨isWord_addReg x y, _, exec_addReg s x y, holdsResultAndFlag_setResult s x (BitVec.toNat_add ..)⟩

/-- Settles O31: as O30, with the difference and the strict comparison of the old values. -/
theorem subRegSetsTheStrictFlag : Obligations.SubRegSetsTheStrictFlag := fun s x y _ =>
  ⟨isWord_subReg x y, _, exec_subReg s x y, holdsResultAndFlag_setResult s x (byte_sub_toNat ..)⟩

/-- Settles O26: one register write. -/
theorem ldImmWritesTheImmediate : Obligations.LdImmWritesTheImmediate := fun s x kk _ =>
  ⟨isWord_ldImm x kk, _, exec_ldImm s x kk, holdsResult_setReg s x rfl⟩

end Sys2Proof.Claim
end

section
/-!
The words of family F, the frames of a fault and of a run of stored bytes, and with them the statement about LD B
(42_index_memory.md R123).
-/

namespace Sys2Proof.Claim

open Sys2Proof.Machine

/-! ## Words of family F (30_encoding.md R69) -/

theorem decode_formatXK_F (x : Reg) (kk : Byte) : decode (formatXK 0xF x kk) = decodeFamilyF (formatXK 0xF x kk) := by
  simp [decode]

/-- A word of family F, its last byte `kk` given apart, selects what the sub-dispatch of 30_encoding.md R69 selects. -/
theorem isWord_familyF {x : Reg} {i : Instr} (kk : Byte) (hi : decodeFamilyF (formatXK 0xF x kk) = i) :
    IsWord (0xF000 + kk.toNat + x.val * 256) i := by
  refine isWord_of_toNat (w := formatXK 0xF x kk) ?_ ((decode_formatXK_F x kk).trans hi)
  have op : (0xF : Nibble).toNat = 0xF := rfl
  rw [formatXK_toNat, op]
  omega

theorem isWord_ldB (x : Reg) : IsWord (0xF033 + x.val * 256) (.ldB x) :=
  isWord_familyF 0x33 (by simp [decodeFamilyF])

/-! ## Frames -/

/-- Fault entry sets RUN and discards nothing else (60_exceptions.md R166). -/
theorem onlyChanges_raise (s : State) (c : Cause) (n : Nat) : OnlyChanges [.run] s (s.raise c n) := by
  refine ⟨⟨fun p hp => ?_, rfl⟩, rfl, rfl⟩
  cases p with
  | run => simp at hp
  | stack => exact ⟨rfl, fun _ => rfl⟩
  | regs | keys | memory => exact fun _ => rfl
  | screen => exact fun _ _ => rfl
  | pc | index | delay | sound | draws => rfl

section
variable (s : State) (a : Nat) (bs : List Byte)

theorem onlyChanges_setBytes : OnlyChanges [.memory] s (s.setBytes a bs) := by
  rw [State.setBytes_eq]
  refine ⟨⟨fun p hp => ?_, rfl⟩, rfl, rfl⟩
  cases p with
  | memory => simp at hp
  | stack => exact ⟨rfl, fun _ => rfl⟩
  | regs | keys => exact fun _ => rfl
  | screen => exact fun _ _ => rfl
  | pc | index | delay | sound | run | draws => rfl

/-! ## Reading back a run of stored bytes -/

theorem setBytes_byteAt_add {j : Nat} (hj : j < bs.length) : (s.setBytes a bs).byteAt (a + j) = bs[j] := by
  simp [State.setBytes_byteAt, hj]

theorem setBytes_byteAt_outside {k : Nat} (hk : k < a ∨ a + bs.length ≤ k) :
    (s.setBytes a bs).byteAt k = s.byteAt k := by
  rw [State.setBytes_byteAt, dif_neg (by omega)]

end

/-! ## LD B -/

/-- The three digits fit a byte, so storing them loses nothing. -/
theorem decimalDigits_map_toNat (b : Byte) :
    (decimalDigits b).map (α := Byte) BitVec.toNat = [b.toNat / 100, b.toNat / 10 % 10, b.toNat % 10] := by
  have hb := b.isLt
  simp only [decimalDigits, List.map_cons, List.map_nil, BitVec.toNat_ofNat, List.cons.injEq, and_true]
  omega

/-- Of a run of stored digits, the `j`-th address reads the `j`-th digit. -/
theorem setBytes_decimalDigits_byteAt (s : State) (a : Nat) (b : Byte) {j : Nat} (hj : j < 3) :
    ((s.setBytes a (decimalDigits b)).byteAt (a + j)).toNat =
      [b.toNat / 100, b.toNat / 10 % 10, b.toNat % 10][j] := by
  have hl : j < (decimalDigits b).length := hj
  rw [setBytes_byteAt_add _ _ _ hl, ← List.getElem_of_eq (decimalDigits_map_toNat b) (by simpa using hj),
    List.getElem_map]

theorem exec_ldB (x : Reg) (s : State) : exec (.ldB x) s = execLdB x s := rfl

/-- Settles O36: the range check is made before any byte is stored, so all three digits are stored or none. -/
theorem ldBStoresTheDigits : Obligations.LdBStoresTheDigits := by
  intro s x _
  refine ⟨isWord_ldB x, ?_⟩
  rw [Faults, exec_ldB]
  obtain ⟨hle, e⟩ | ⟨hgt, e⟩ := execLdB_cases s x
  · have digit (j : Nat) (hj : j < 3) := setBytes_decimalDigits_byteAt s s.i.toNat (s.reg x) hj
    refine ⟨fun hgt => by omega, fun _ =>
      ⟨_, e, digit 0 (by decide), digit 1 (by decide), digit 2 (by decide), fun a ha => ?_,
        onlyChanges_setBytes ..⟩⟩
    exact setBytes_byteAt_outside _ _ _ (by rw [decimalDigits_length]; omega)
  · exact ⟨fun _ => ⟨_, e, rfl, onlyChanges_raise ..⟩, fun hle => by omega⟩

end Sys2Proof.Claim
end

section
/-!
The values of the state after Reset and the Reset transition, and with them the statement about Reset
(70_reset_and_hazards.md R190).
-/

namespace Sys2Proof.Claim

open Sys2Proof.Machine

section
variable (rom : GlyphRom)

/-! ## The reset contents of memory (10_state.md R37) -/

theorem resetWith_byteAt (a : Nat) : (State.resetWith rom).byteAt a = Memory.unlisted rom a := rfl

/-- GLYPH_ROM stands glyph after glyph, five bytes each. -/
theorem unlisted_glyph (d : Fin 16) (j : Fin 5) : Memory.unlisted rom (5 * d.val + j.val) = (rom.get d).get j := by
  have inside : 5 * d.val + j.val < 80 := by omega
  have glyph : (5 * d.val + j.val) / 5 = d.val := by omega
  have line : (5 * d.val + j.val) % 5 = j.val := by omega
  simp [Memory.unlisted, inside, glyph, line, Vector.get_eq_getElem]

theorem unlisted_above_glyphs {a : Nat} (ha : 0x50 ≤ a) : Memory.unlisted rom a = 0 :=
  dif_neg (Nat.not_lt.mpr ha)

/-! ## The reset state -/

/-- The registers, the stack and the keys are filled with one value each; screen and memory have lemmas of their own. -/
theorem resetValues_resetWith : ResetValues rom (State.resetWith rom) := by
  refine ⟨fun r => ?regs, rfl, rfl, rfl, fun k => ?stack, rfl, rfl, fun k => ?keys, fun x y => ?screen,
    fun d j => ?glyphs, fun a ha => ?rest, rfl⟩
  case regs => exact Vector.getElem_replicate r.isLt
  case stack | keys => exact Vector.getElem_replicate k.isLt
  case screen => exact pixelAt_blankScreen x y
  case glyphs => rw [resetWith_byteAt, unlisted_glyph]
  case rest => rw [resetWith_byteAt, unlisted_above_glyphs rom ha]

end

/-! ## The Reset transition -/

/-- Reset leaves the schedule and is performed in every run state; only what is no state of the CORE's stays. -/
theorem step_reset {s : State} {more : List Transition} (h : s.schedule = .reset :: more) :
    step s = .next (((State.resetWith s.glyphRom).setDraws s.draws).setSchedule more) := by
  simp [step, State.nextTransition, h, State.perform, State.hostReset]

/-- The count of draws and the schedule are the model's own: no reset value speaks of them. -/
theorem resetValues_setDraws_setSchedule {rom : GlyphRom} {t : State} (n : Nat) (l : List Transition)
    (h : ResetValues rom t) : ResetValues rom ((t.setDraws n).setSchedule l) := h

/-- Settles O16: the state after Reset is built from GLYPH_ROM alone, so RUN and all other state before it are lost. -/
theorem resetRestoresEveryPieceOfState : Obligations.ResetRestoresEveryPieceOfState := fun s more h =>
  ⟨_, step_reset h, resetValues_setDraws_setSchedule s.draws more (resetValues_resetWith s.glyphRom)⟩

end Sys2Proof.Claim
end

section
/-!
The decoder and the encoder undo each other, and the two-level dispatch selects by the masks of the opcode map: the
statements about 30_encoding.md, and the words of the families that no earlier section has.
-/

namespace Sys2Proof

open Laws.EncodesInRow

/-! ## A word put together from its fields -/

section
variable {w : Word} {op : Nibble}

theorem formatA_of_fieldOp (h : (fieldOp w).toNat = op.toNat) : formatA op (fieldNNN w) = w := by
  apply BitVec.eq_of_toNat_eq
  rw [formatA_toNat, ← h, fieldOp_toNat, fieldNNN_toNat]
  omega

theorem formatXK_of_fieldOp (h : (fieldOp w).toNat = op.toNat) : formatXK op (fieldX w) (fieldKK w) = w := by
  apply BitVec.eq_of_toNat_eq
  rw [formatXK_toNat, ← h, fieldOp_toNat, fieldX_val, fieldKK_toNat]
  omega

theorem formatXY_of_fieldOp (h : (fieldOp w).toNat = op.toNat) :
    formatXY op (fieldX w) (fieldY w) (fieldN w) = w := by
  apply BitVec.eq_of_toNat_eq
  rw [formatXY_toNat, ← h, fieldOp_toNat, fieldX_val, fieldY_val, fieldN_toNat]
  omega

/-- Format XS: the byte `kk` is part of the pattern (30_encoding.md R62). -/
theorem formatXK_of_fields {kk : Byte} (h : (fieldOp w).toNat = op.toNat) (hk : fieldKK w = kk) :
    formatXK op (fieldX w) kk = w :=
  hk ▸ formatXK_of_fieldOp h

/-- Format XY: the nibble `n` is part of the pattern (30_encoding.md R62). -/
theorem formatXY_of_fields {n : Nibble} (h : (fieldOp w).toNat = op.toNat) (hn : (fieldN w).toNat = n.toNat) :
    formatXY op (fieldX w) (fieldY w) n = w :=
  BitVec.eq_of_toNat_eq hn ▸ formatXY_of_fieldOp h

end

/-! ## Encoding what was decoded -/

theorem encode_decodeFamily0 (w : Word) : encode (decodeFamily0 w) = w := by
  unfold decodeFamily0
  split
  next h => exact h.symm
  next =>
    split
    next h => exact h.symm
    next => rfl

theorem encode_decodeFamily8 {w : Word} (h : (fieldOp w).toNat = 8) : encode (decodeFamily8 w) = w := by
  unfold decodeFamily8
  split
  case h_10 => rfl
  all_goals exact formatXY_of_fields h ‹_›

theorem encode_decodeFamilyE {w : Word} (h : (fieldOp w).toNat = 0xE) : encode (decodeFamilyE w) = w := by
  unfold decodeFamilyE
  iterate 2
    split
    · exact formatXK_of_fields h ‹_›
  rfl

theorem encode_decodeFamilyF {w : Word} (h : (fieldOp w).toNat = 0xF) : encode (decodeFamilyF w) = w := by
  unfold decodeFamilyF
  iterate 9
    split
    · exact formatXK_of_fields h ‹_›
  rfl

/-- No bit of a word is dropped in decoding. -/
theorem encode_decode (w : Word) : encode (decode w) = w := by
  have hlt := (fieldOp w).isLt
  unfold decode
  split
  case h_1 => exact encode_decodeFamily0 w
  case h_9 h => exact encode_decodeFamily8 h
  case h_15 h => exact encode_decodeFamilyE h
  case h_16 =>
    simp only [imp_false] at *
    exact encode_decodeFamilyF (by omega)
  case h_2 | h_3 | h_11 | h_12 => exact formatA_of_fieldOp ‹_›
  case h_6 | h_10 | h_14 => exact formatXY_of_fieldOp ‹_›
  all_goals exact formatXK_of_fieldOp ‹_›

/-! ## The fields a mask fixes -/

section
variable {w p : Word}

theorem fieldOp_of_and_F000 (h : w &&& 0xF000 = p) : fieldOp w = BitVec.ofNat 4 (p.toNat / 4096) := by
  rw [← fieldOp_toNat, BitVec.ofNat_toNat, BitVec.setWidth_eq, ← h, and_F000, fieldOp_formatA]

theorem fields_of_and_F00F (h : w &&& 0xF00F = p) :
    fieldOp w = BitVec.ofNat 4 (p.toNat / 4096) ∧ fieldN w = BitVec.ofNat 4 (p.toNat % 16) := by
  rw [← fieldOp_toNat, ← fieldN_toNat, BitVec.ofNat_toNat, BitVec.ofNat_toNat, BitVec.setWidth_eq,
    BitVec.setWidth_eq, ← h, and_F00F, fieldOp_formatXY, fieldN_formatXY]
  exact ⟨rfl, rfl⟩

theorem fields_of_and_F0FF (h : w &&& 0xF0FF = p) :
    fieldOp w = BitVec.ofNat 4 (p.toNat / 4096) ∧ fieldKK w = BitVec.ofNat 8 (p.toNat % 256) := by
  rw [← fieldOp_toNat, ← fieldKK_toNat, BitVec.ofNat_toNat, BitVec.ofNat_toNat, BitVec.setWidth_eq,
    BitVec.setWidth_eq, ← h, and_F0FF, fieldOp_formatXK, fieldKK_formatXK]
  exact ⟨rfl, rfl⟩

end

/-! ## The dispatch and the rows of the opcode map -/

theorem encodesInRow (i : Instr) : Statement i := by
  cases i with
  | cls => exact cls
  | ret => exact ret
  | jp nnn => exact jp nnn
  | call nnn => exact call nnn
  | seImm x kk => exact seImm x kk
  | sneImm x kk => exact sneImm x kk
  | seReg x y n => exact seReg x y n
  | ldImm x kk => exact ldImm x kk
  | addImm x kk => exact addImm x kk
  | ldReg x y => exact ldReg x y
  | orReg x y => exact orReg x y
  | andReg x y => exact andReg x y
  | xorReg x y => exact xorReg x y
  | addReg x y => exact addReg x y
  | subReg x y => exact subReg x y
  | shr x y => exact shr x y
  | subn x y => exact subn x y
  | shl x y => exact shl x y
  | sneReg x y n => exact sneReg x y n
  | ldI nnn => exact ldI nnn
  | jpV0 nnn => exact jpV0 nnn
  | rnd x kk => exact rnd x kk
  | drw x y n => exact drw x y n
  | skp x => exact skp x
  | sknp x => exact sknp x
  | ldVxDT x => exact ldVxDT x
  | ldVxK x => exact ldVxK x
  | ldDTVx x => exact ldDTVx x
  | ldSTVx x => exact ldSTVx x
  | addI x => exact addI x
  | ldF x => exact ldF x
  | ldB x => exact ldB x
  | stRegs x => exact stRegs x
  | ldRegs x => exact ldRegs x
  | nop w => exact nop w

/-- NOP stands in the last row; every other instruction is well formed and stands above it. -/
theorem Instr.row_lt_or_eq_nop (i : Instr) : i.row < 34 ∧ i.wellFormed = true ∨ ∃ w, i = .nop w := by
  cases i with
  | nop w => exact .inr ⟨w, rfl⟩
  | _ => exact .inl ⟨by simp [row], rfl⟩

/-- A decoded word that is no NOP matches the row of its instruction. -/
theorem and_mask_of_decode_row {w : Word} {k : Nat} (hk : k < 34) (h : (decode w).row = k) :
    w &&& (instructionRows[k]'hk).1 = (instructionRows[k]'hk).2 := by
  have hwf : (decode w).wellFormed = true := by
    obtain ⟨_, hwf⟩ | ⟨v, hv⟩ := (decode w).row_lt_or_eq_nop
    · exact hwf
    · rw [hv] at h
      exact absurd h (Nat.ne_of_gt hk)
  have hrow := encodesInRow (decode w) hwf
  rwa [h, List.getElem?_eq_getElem hk, encode_decode] at hrow

/-- A word that matches a row decodes to that row's instruction. -/
theorem decode_row_of_and_mask {w : Word} {k : Nat} (hk : k < 34)
    (h : w &&& (instructionRows[k]'hk).1 = (instructionRows[k]'hk).2) : (decode w).row = k := by
  have hwhole {p : Word} (h : w &&& 0xFFFF = p) : w = p := (BitVec.and_allOnes (x := w)).symm.trans h
  match k, hk, h with
  | 0, _, h | 1, _, h =>
    simp only [instructionRows, List.cons_append, List.getElem_cons_succ, List.getElem_cons_zero] at h
    rw [hwhole h]
    rfl
  | 9, _, h | 10, _, h | 11, _, h | 12, _, h | 13, _, h | 14, _, h | 15, _, h | 16, _, h | 17, _, h =>
    obtain ⟨ho, hn⟩ := fields_of_and_F00F h
    simp [instructionRows, decode, decodeFamily8, ho, hn, Instr.row]
  | 23, _, h | 24, _, h =>
    obtain ⟨ho, hk⟩ := fields_of_and_F0FF h
    simp [instructionRows, decode, decodeFamilyE, ho, hk, Instr.row]
  | 25, _, h | 26, _, h | 27, _, h | 28, _, h | 29, _, h | 30, _, h | 31, _, h | 32, _, h | 33, _, h =>
    obtain ⟨ho, hk⟩ := fields_of_and_F0FF h
    simp [instructionRows, decode, decodeFamilyF, ho, hk, Instr.row]
  | 2, _, h | 3, _, h | 4, _, h | 5, _, h | 6, _, h | 7, _, h | 8, _, h | 18, _, h | 19, _, h | 20, _, h | 21, _, h
  | 22, _, h =>
    have ho := fieldOp_of_and_F000 h
    simp [instructionRows, decode, ho, Instr.row]
  | k + 34, hk, _ => omega

/-- NOP is the decoding of the words that match no row (30_encoding.md R70). -/
theorem decode_row_eq_34_iff {w : Word} : (decode w).row = 34 ↔ unmatched w = true := by
  simp only [unmatched, List.all_eq_true, bne_iff_ne]
  constructor
  · intro h r hr he
    obtain ⟨k, hk, rfl⟩ := List.mem_iff_getElem.mp hr
    have := decode_row_of_and_mask hk he
    exact absurd (this.symm.trans h) (Nat.ne_of_lt hk)
  · intro h
    obtain ⟨hlt, _⟩ | ⟨v, hv⟩ := (decode w).row_lt_or_eq_nop
    · exact absurd (and_mask_of_decode_row hlt rfl) (h _ (List.getElem_mem hlt))
    · rw [hv]
      rfl

theorem decode_eq_nop_of_row {w : Word} (h : (decode w).row = 34) : decode w = .nop w := by
  obtain ⟨hlt, _⟩ | ⟨v, hv⟩ := (decode w).row_lt_or_eq_nop
  · omega
  · rw [hv, ← encode_decode w, hv]
    rfl

theorem decode_eq_nop_iff_unmatched {w : Word} : decode w = .nop w ↔ unmatched w = true :=
  Iff.trans ⟨fun h => congrArg Instr.row h, decode_eq_nop_of_row⟩ decode_row_eq_34_iff

theorem decode_wellFormed (w : Word) : (decode w).wellFormed = true := by
  obtain ⟨_, hwf⟩ | ⟨v, hv⟩ := (decode w).row_lt_or_eq_nop
  · exact hwf
  · have hn := decode_eq_nop_of_row (congrArg Instr.row hv)
    rw [hn]
    exact decode_eq_nop_iff_unmatched.mp hn

/-! ## Decoding what was encoded -/

/-- Each instruction's word is put together from fields that the decoder reads back; for NOP well-formedness says that no
other instruction takes the word. -/
theorem decode_encode {i : Instr} (h : i.wellFormed = true) : decode (encode i) = i := by
  cases i with
  | cls | ret => rfl
  | nop w => exact decode_eq_nop_iff_unmatched.mpr h
  | _ => simp [encode, decode, decodeFamily8, decodeFamilyE, decodeFamilyF]

/-- No word matches two rows, so the row of the decoded instruction is the first that matches. -/
theorem decode_row_eq_findIdx (w : Word) :
    (decode w).row = instructionRows.findIdx (fun r => w &&& r.1 == r.2) := by
  symm
  by_cases hn : unmatched w = true
  · rw [decode_row_eq_34_iff.mpr hn]
    refine List.findIdx_eq_length.mpr fun r hr => ?_
    simpa using List.all_eq_true.mp hn r hr
  · have hlt : (decode w).row < 34 := by
      obtain ⟨hlt, _⟩ | ⟨v, hv⟩ := (decode w).row_lt_or_eq_nop
      · exact hlt
      · exact absurd (decode_row_eq_34_iff.mp (by rw [hv]; rfl)) hn
    refine (List.findIdx_eq hlt).mpr ⟨beq_iff_eq.mpr (and_mask_of_decode_row hlt rfl), fun j hj => ?_⟩
    refine beq_eq_false_iff_ne.mpr fun he => ?_
    exact absurd (decode_row_of_and_mask (hj.trans hlt) he) (Nat.ne_of_gt hj)

/-! ## The unmatched words as the spec lists them (30_encoding.md R65, R67, R68, R69) -/

theorem decodeFamily0_eq_nop_iff {w : Word} : decodeFamily0 w = .nop w ↔ w ≠ 0x00E0 ∧ w ≠ 0x00EE := by
  unfold decodeFamily0
  split
  next h => simp [h]
  next h =>
    split
    next h' => simp [h']
    next h' => simp [h, h']

theorem decodeFamily8_eq_nop_iff {w : Word} :
    decodeFamily8 w = .nop w ↔ w.toNat % 16 ∈ [8, 9, 0xA, 0xB, 0xC, 0xD, 0xF] := by
  have hlt := (fieldN w).isLt
  rw [← fieldN_toNat]
  unfold decodeFamily8
  split
  case h_10 =>
    simp only [imp_false] at *
    simp only [List.mem_cons, List.not_mem_nil, or_false, true_iff]
    omega
  all_goals simp_all

theorem decodeFamilyE_eq_nop_iff {w : Word} : decodeFamilyE w = .nop w ↔ w.toNat % 256 ∉ [0x9E, 0xA1] := by
  rw [← fieldKK_toNat]
  unfold decodeFamilyE
  repeat' split
  all_goals simp_all [BitVec.toNat_eq]

theorem decodeFamilyF_eq_nop_iff {w : Word} :
    decodeFamilyF w = .nop w ↔ w.toNat % 256 ∉ [0x07, 0x0A, 0x15, 0x18, 0x1E, 0x29, 0x33, 0x55, 0x65] := by
  rw [← fieldKK_toNat]
  unfold decodeFamilyF
  repeat' split
  all_goals simp_all [BitVec.toNat_eq]

open Claim in
theorem decode_eq_nop_iff {w : Word} : decode w = .nop w ↔ Unmatched w := by
  have hlt := (fieldOp w).isLt
  unfold decode Unmatched
  rw [← fieldOp_toNat]
  split
  case h_1 h => simp [h, decodeFamily0_eq_nop_iff]
  case h_9 h => simp [h, decodeFamily8_eq_nop_iff]
  case h_15 h => simp [h, decodeFamilyE_eq_nop_iff]
  case h_16 =>
    simp only [imp_false] at *
    have h : (fieldOp w).toNat = 0xF := by omega
    simp [h, decodeFamilyF_eq_nop_iff]
  all_goals simp [*]

end Sys2Proof

namespace Sys2Proof.Claim

/-! ## The statements -/

/-- Settles O1: the decoder reads back the fields that the encoder put together. -/
theorem decodeOfEncodeIsTheInstruction : Obligations.DecodeOfEncodeIsTheInstruction := fun _ h => decode_encode h

/-- Settles O2: the fields of a word, its ignored ones among them, put the word together again. -/
theorem encodeOfDecodeIsTheWord : Obligations.EncodeOfDecodeIsTheWord := fun w =>
  ⟨decode_wellFormed w, encode_decode w⟩

/-- Settles O3: a word matches exactly the row of the instruction it decodes to. -/
theorem dispatchSelectsTheFirstMatchingRow : Obligations.DispatchSelectsTheFirstMatchingRow := decode_row_eq_findIdx

/-- Settles O4: family by family. -/
theorem exactlyTheUnmatchedWordsAreNops : Obligations.ExactlyTheUnmatchedWordsAreNops := fun _ => decode_eq_nop_iff

/-- Settles O5: each word is evaluated. -/
theorem sampleWordsDecode : Obligations.SampleWordsDecode := by
  unfold Obligations.SampleWordsDecode
  decide

end Sys2Proof.Claim
end

section
/-!
Execute in one equation: an instruction stops where its precondition fails, and else leaves the state that it is there for.
With it the statements about all instructions at once: which faults, what is written, what is read (10_state.md,
60_exceptions.md).
-/

namespace Sys2Proof.Claim

open Sys2Proof.Machine

/-! ## Execute in one equation -/

/-- The fault of an access that reaches above 0xFFF (60_exceptions.md R160). -/
def memRangeStop (s : State) : Stop := .raise .memRange (max s.i.toNat 0x1000)

/-- Why the instruction does not deliver, if it does not: the preconditions of 60_exceptions.md R160, and a legal SP. -/
def stopOf : Instr → State → Option Stop
  | .ret, s =>
    if s.sp = 0 then some (.raise .stackUnderflow 0)
    else if 16 < s.sp.toNat then some (.halt .illegalStackPointer) else none
  | .call _, s =>
    if s.sp = 16 then some (.raise .stackOverflow s.pc.toNat)
    else if 16 < s.sp.toNat then some (.halt .illegalStackPointer) else none
  | .drw _ _ n, s => if n ≠ 0 ∧ s.i.toNat + n.toNat - 1 > 0xFFF then some (memRangeStop s) else none
  | .ldB _, s => if s.i.toNat + 2 > 0xFFF then some (memRangeStop s) else none
  | .stRegs x, s | .ldRegs x, s => if s.i.toNat + x.val > 0xFFF then some (memRangeStop s) else none
  | .skp x, s | .sknp x, s =>
    if (s.reg x).toNat > 15 then some (.raise .keyIndex (s.reg x).toNat) else none
  | _, _ => none

/-- The state the instruction leaves when it delivers. -/
def effect : Instr → State → State
  | .cls, s => s.setFb blankScreen
  | .ret, s => (s.setSp (s.sp - 1)).setPc (s.stack.get (Fin.ofNat 16 (s.sp.toNat - 1)))
  | .jp nnn, s => s.setPc (addrOperand nnn)
  | .call nnn, s => ((s.setEntry (Fin.ofNat 16 s.sp.toNat) s.pc).setSp (s.sp + 1)).setPc (addrOperand nnn)
  | .seImm x kk, s => s.skipIf (s.reg x == kk)
  | .sneImm x kk, s => s.skipIf (s.reg x != kk)
  | .seReg x y _, s => s.skipIf (s.reg x == s.reg y)
  | .ldImm x kk, s => s.setReg x kk
  | .addImm x kk, s => s.setReg x (s.reg x + kk)
  | .ldReg x y, s => s.setReg x (s.reg y)
  | .orReg x y, s => s.setReg x (s.reg x ||| s.reg y)
  | .andReg x y, s => s.setReg x (s.reg x &&& s.reg y)
  | .xorReg x y, s => s.setReg x (s.reg x ^^^ s.reg y)
  | .addReg x y, s => s.setResult x (s.reg x + s.reg y) (carryOut (s.reg x) (s.reg y))
  | .subReg x y, s => s.setResult x (s.reg x - s.reg y) (noBorrow (s.reg x) (s.reg y))
  | .shr x _, s => s.setResult x (s.reg x >>> 1) (lowBit (s.reg x))
  | .subn x y, s => s.setResult x (s.reg y - s.reg x) (noBorrow (s.reg y) (s.reg x))
  | .shl x _, s => s.setResult x (s.reg x <<< 1) (highBit (s.reg x))
  | .sneReg x y _, s => s.skipIf (s.reg x != s.reg y)
  | .ldI nnn, s => s.setI (addrOperand nnn)
  | .jpV0 nnn, s => s.setPc (s.indexedTarget nnn)
  | .rnd x kk, s => s.draw8.2.setReg x (s.draw8.1 &&& kk)
  | .drw x y n, s => s.draw x y (s.bytesAt s.i.toNat n.toNat)
  | .skp x, s => s.skipIf (s.keys.get (Fin.ofNat 16 (s.reg x).toNat))
  | .sknp x, s => s.skipIf (!s.keys.get (Fin.ofNat 16 (s.reg x).toNat))
  | .ldVxDT x, s => s.setReg x s.dt
  | .ldVxK x, s => s.setRun (.awaitingKey x)
  | .ldDTVx x, s => s.setDT (s.reg x)
  | .ldSTVx x, s => s.setST (s.reg x)
  | .addI x, s => s.setI (s.i + zext16 (s.reg x))
  | .ldF x, s => s.setI (glyphAddr (s.reg x))
  | .ldB x, s => s.setBytes s.i.toNat (decimalDigits (s.reg x))
  | .stRegs x, s => s.setBytes s.i.toNat (s.regBlock x)
  | .ldRegs x, s => s.loadRegs (s.bytesAt s.i.toNat (x.val + 1))
  | .nop _, s => s

/-- An index below 16 is taken as it is. -/
theorem ofNat_eq_mk {k : Nat} (h : k < 16) : Fin.ofNat 16 k = ⟨k, h⟩ := Fin.ext (Nat.mod_eq_of_lt h)

/-- Every instruction either stops or has its effect; those that cannot stop have it by definition. -/
theorem exec_eq (i : Instr) (s : State) :
    exec i s = (stopOf i s).elim (.next (effect i s)) fun e => s.settle (.error e) := by
  cases i with
  | ret =>
    obtain ⟨h, h0, e⟩ | ⟨h, e⟩ | ⟨h, e⟩ := execRet_cases s
    · have hne : s.sp ≠ 0 := fun h' => h0 (by simp [h'])
      have hle : ¬ 16 < s.sp.toNat := by omega
      simp only [exec, e, stopOf, if_neg hne, if_neg hle, effect, ofNat_eq_mk h, Option.elim_none]
    · simp only [exec, e, stopOf, if_pos h, Option.elim_some, State.settle_raise]
    · have hne : s.sp ≠ 0 := fun h' => by simp [h'] at h
      simp only [exec, e, stopOf, if_neg hne, if_pos h, Option.elim_some, State.settle_halt]
  | call nnn =>
    obtain ⟨h, e⟩ | ⟨h, e⟩ | ⟨h, e⟩ := execCall_cases s nnn
    · have hne : s.sp ≠ 16 := fun h' => by simp [h'] at h
      have hle : ¬ 16 < s.sp.toNat := by omega
      simp only [exec, e, stopOf, if_neg hne, if_neg hle, effect, ofNat_eq_mk h, Option.elim_none]
    · simp only [exec, e, stopOf, if_pos h, Option.elim_some, State.settle_raise]
    · have hne : s.sp ≠ 16 := fun h' => by simp [h'] at h
      simp only [exec, e, stopOf, if_neg hne, if_pos h, Option.elim_some, State.settle_halt]
  | drw x y n =>
    obtain ⟨h, e⟩ | ⟨hn, h, e⟩ := execDrw_cases s x y n
    · have hin : ¬ (n ≠ 0 ∧ s.i.toNat + n.toNat - 1 > 0xFFF) := fun hgt => h.elim hgt.1 (Nat.not_le.mpr hgt.2)
      simp only [exec, e, stopOf, if_neg hin, effect, Option.elim_none]
    · simp only [exec, e, stopOf, if_pos (And.intro hn h), Option.elim_some, memRangeStop, State.settle_raise]
  | ldB x =>
    obtain ⟨h, e⟩ | ⟨h, e⟩ := execLdB_cases s x
    · simp only [exec, e, stopOf, if_neg (Nat.not_lt.mpr h), effect, Option.elim_none]
    · simp only [exec, e, stopOf, if_pos h, Option.elim_some, memRangeStop, State.settle_raise]
  | stRegs x =>
    obtain ⟨h, e⟩ | ⟨h, e⟩ := execStRegs_cases s x
    · simp only [exec, e, stopOf, if_neg (Nat.not_lt.mpr h), effect, Option.elim_none]
    · simp only [exec, e, stopOf, if_pos h, Option.elim_some, memRangeStop, State.settle_raise]
  | ldRegs x =>
    obtain ⟨h, e⟩ | ⟨h, e⟩ := execLdRegs_cases s x
    · simp only [exec, e, stopOf, if_neg (Nat.not_lt.mpr h), effect, Option.elim_none]
    · simp only [exec, e, stopOf, if_pos h, Option.elim_some, memRangeStop, State.settle_raise]
  | skp x =>
    obtain ⟨h, e⟩ | ⟨h, e⟩ := execSkp_cases s x
    · simp only [exec, e, stopOf, if_neg (Nat.not_lt.mpr (Nat.le_of_lt_succ h)), effect, ofNat_eq_mk h,
        Option.elim_none, Vector.get_eq_getElem]
    · simp only [exec, e, stopOf, if_pos h, Option.elim_some, State.settle_raise]
  | sknp x =>
    obtain ⟨h, e⟩ | ⟨h, e⟩ := execSknp_cases s x
    · simp only [exec, e, stopOf, if_neg (Nat.not_lt.mpr (Nat.le_of_lt_succ h)), effect, ofNat_eq_mk h,
        Option.elim_none, Vector.get_eq_getElem]
    · simp only [exec, e, stopOf, if_pos h, Option.elim_some, State.settle_raise]
  | _ => rfl

section
variable {i : Instr} {s t : State} {c : Cause} {n : Nat}

theorem exec_of_delivers (h : stopOf i s = none) : exec i s = .next (effect i s) := by
  rw [exec_eq, h]
  rfl

theorem exec_of_raises (h : stopOf i s = some (.raise c n)) : exec i s = .next (s.raise c n) := by
  rw [exec_eq, h]
  rfl

/-- An instruction that answers a next state delivered its effect or raised a fault. -/
theorem exec_next_cases (h : exec i s = .next t) :
    (stopOf i s = none ∧ t = effect i s) ∨ ∃ c n, stopOf i s = some (.raise c n) ∧ t = s.raise c n := by
  rw [exec_eq] at h
  rcases hs : stopOf i s with _ | ⟨c, n⟩ | f <;> rw [hs] at h
  · exact .inl ⟨rfl, (Host.Outcome.next.inj h).symm⟩
  · exact .inr ⟨c, n, rfl, (Host.Outcome.next.inj h).symm⟩
  · cases h

/-- Only an SP that no rule produces leaves an instruction without a next state (log entry 8). -/
theorem sp_gt_of_halts {f : Fault} (h : stopOf i s = some (.halt f)) : 16 < s.sp.toNat := by
  cases i with
  | ret | call =>
    by_contra hle
    simp only [stopOf, if_neg hle] at h
    split at h <;> simp at h
  | _ => simp [stopOf, memRangeStop] at h

end

/-! ## Frames -/

/-- `Keeps` given field by field. -/
theorem keeps_of_fields {l : List Part} {s t : State} (regs : .regs ∈ l ∨ t.v = s.v) (pc : .pc ∈ l ∨ t.pc = s.pc)
    (index : .index ∈ l ∨ t.i = s.i) (stack : .stack ∈ l ∨ t.sp = s.sp ∧ t.stack = s.stack)
    (delay : .delay ∈ l ∨ t.dt = s.dt) (sound : .sound ∈ l ∨ t.st = s.st) (keys : .keys ∈ l ∨ t.keys = s.keys)
    (screen : .screen ∈ l ∨ t.fb = s.fb) (memory : .memory ∈ l ∨ t.mem = s.mem) (run : .run ∈ l ∨ t.run = s.run)
    (draws : .draws ∈ l ∨ t.draws = s.draws) (rom : t.glyphRom = s.glyphRom) : Keeps l s t := by
  refine ⟨fun p hp => ?_, rom⟩
  cases p with
  | regs => exact fun r => by rw [State.reg, regs.resolve_left hp, State.reg]
  | pc => exact pc.resolve_left hp
  | index => exact index.resolve_left hp
  | stack => exact ⟨(stack.resolve_left hp).1, fun k => by rw [(stack.resolve_left hp).2]⟩
  | delay => exact delay.resolve_left hp
  | sound => exact sound.resolve_left hp
  | keys => exact fun k => by rw [keys.resolve_left hp]
  | screen => exact fun x y => by rw [State.pixel, screen.resolve_left hp, State.pixel]
  | memory => exact fun a => by rw [State.byteAt, memory.resolve_left hp, rom, State.byteAt]
  | run => exact run.resolve_left hp
  | draws => exact draws.resolve_left hp

section
variable (s : State)

theorem onlyChanges_self : OnlyChanges [] s s :=
  ⟨by apply keeps_of_fields <;> simp, rfl, rfl⟩

theorem onlyChanges_setPc (a : Word) : OnlyChanges [.pc] s (s.setPc a) :=
  ⟨by apply keeps_of_fields <;> simp, by simp, by simp⟩

theorem onlyChanges_skipIf (c : Bool) : OnlyChanges [.pc] s (s.skipIf c) :=
  ⟨by apply keeps_of_fields <;> simp, by simp, by simp⟩

theorem onlyChanges_setI (a : Word) : OnlyChanges [.index] s (s.setI a) :=
  ⟨by apply keeps_of_fields <;> simp, by simp, by simp⟩

theorem onlyChanges_setDT (b : Byte) : OnlyChanges [.delay] s (s.setDT b) :=
  ⟨by apply keeps_of_fields <;> simp, by simp, by simp⟩

theorem onlyChanges_setST (b : Byte) : OnlyChanges [.sound] s (s.setST b) :=
  ⟨by apply keeps_of_fields <;> simp, by simp, by simp⟩

theorem onlyChanges_setRun (r : Run) : OnlyChanges [.run] s (s.setRun r) :=
  ⟨by apply keeps_of_fields <;> simp, by simp, by simp⟩

theorem onlyChanges_setFb (fb : Framebuffer) : OnlyChanges [.screen] s (s.setFb fb) :=
  ⟨by apply keeps_of_fields <;> simp, by simp, by simp⟩

/-- The frame of every instruction that delivers: 10_state.md R20 to R33, 20_memory.md R48. -/
theorem effect_onlyChanges (i : Instr) : OnlyChanges (writes i) s (effect i s) := by
  cases i with
  | nop => exact onlyChanges_self s
  | cls => exact onlyChanges_setFb s _
  | jp | jpV0 => exact onlyChanges_setPc s _
  | seImm | sneImm | seReg | sneReg | skp | sknp => exact onlyChanges_skipIf s _
  | ldI | addI | ldF => exact onlyChanges_setI s _
  | ldDTVx => exact onlyChanges_setDT s _
  | ldSTVx => exact onlyChanges_setST s _
  | ldVxK => exact onlyChanges_setRun s _
  | ldB | stRegs => exact onlyChanges_setBytes s _ _
  | ret | call | rnd | drw => exact ⟨by apply keeps_of_fields <;> simp [effect, writes, State.draw], rfl, rfl⟩
  | _ => exact onlyChanges_regs s _

end

section
variable {i : Instr} {s t : State} {c : Cause} {n : Nat}

/-- An instruction changes RUN only to wait for a key. -/
theorem effect_run (i : Instr) (s : State) :
    (effect i s).run = s.run ∨ ∃ x, i = .ldVxK x ∧ (effect i s).run = .awaitingKey x := by
  cases i with
  | ldVxK x => exact .inr ⟨x, rfl, rfl⟩
  | _ => exact .inl ((effect_onlyChanges s _).1.1 .run (by simp [writes]))

/-- A run state that is a fault shows that the instruction raised it. -/
theorem exec_faulted (hr : s.run = .running) (h : exec i s = .next t) (ht : t.run = .faulted c n) :
    stopOf i s = some (.raise c n) ∧ t = s.raise c n := by
  obtain ⟨_, rfl⟩ | ⟨c', n', hs, rfl⟩ := exec_next_cases h
  · obtain e | ⟨x, _, e⟩ := effect_run i s <;> simp [e, hr] at ht
  · obtain ⟨rfl, rfl⟩ := Run.faulted.inj ht
    exact ⟨hs, rfl⟩

end

theorem OnlyChanges.mono {l l' : List Part} {s t : State} (h : OnlyChanges l s t) (hl : l ⊆ l') :
    OnlyChanges l' s t :=
  ⟨⟨fun p hp => h.1.1 p fun hm => hp (hl hm), h.1.2⟩, h.2⟩

/-! ## Registers (10_state.md R20, R21) -/

@[simp] theorem draw_reg (s : State) (x y r : Reg) (sprite : List Byte) :
    (s.draw x y sprite).reg r =
      if r = VF then flagByte (drawSprite s.fb (s.reg x).toNat (s.reg y).toNat sprite).2 else s.reg r := by
  simp [State.draw]

/-- A register that is no destination is left alone, VF too when no flag is written. -/
theorem effect_reg_of_not_named {i : Instr} {s : State} {r : Reg} (hd : ¬ namesDestination r i)
    (hf : r = VF → writesFlag i = false) : (effect i s).reg r = s.reg r := by
  cases i with
  | ldRegs x =>
    have hlt : ¬ r.val < x.val + 1 := fun h => hd (Nat.le_of_lt_succ h)
    simp [effect, State.loadRegs_reg, hlt]
  | addReg x | subReg x | shr x | subn x | shl x =>
    have hr : r ≠ VF := fun h => Bool.noConfusion (hf h)
    have hx : r ≠ x := hd
    simp [effect, hr, hx]
  | drw =>
    have hr : r ≠ VF := fun h => Bool.noConfusion (hf h)
    simp [effect, hr]
  | ldImm x | addImm x | ldReg x | orReg x | andReg x | xorReg x | rnd x | ldVxDT x =>
    have hx : r ≠ x := hd
    simp [effect, hx]
  | _ => simp [effect]

/-- The flag-writing instructions leave a flag in VF, whatever their destination (10_state.md R22). -/
theorem effect_flag {i : Instr} (h : writesFlag i = true) (s : State) :
    ∃ c, (effect i s).reg VF = flagByte c := by
  cases i with
  | addReg | subReg | shr | subn | shl => exact ⟨_, (State.setResult_reg ..).trans (if_pos rfl)⟩
  | drw => exact ⟨_, (draw_reg ..).trans (if_pos rfl)⟩
  | _ => cases h

theorem flagByte_eq (c : Bool) : flagByte c = 0 ∨ flagByte c = 1 := by
  cases c
  · exact .inl rfl
  · exact .inr rfl

/-! ## What an instruction does not read -/

/-- An instruction that stops in the same way and whose effect commutes with a change of state commutes with it. -/
theorem exec_commutes {f : State → State} {i : Instr} {s : State} (hstop : stopOf i (f s) = stopOf i s)
    (heffect : effect i (f s) = f (effect i s)) (hraise : ∀ c n, (f s).raise c n = f (s.raise c n)) :
    exec i (f s) = mapNext f (exec i s) := by
  rw [exec_eq, exec_eq, hstop, heffect]
  rcases stopOf i s with _ | ⟨c, n⟩ | h
  · rfl
  · exact congrArg _ (hraise c n)
  · rfl

section
variable (s : State)

theorem skipIf_setST (b : Byte) (c : Bool) : (s.setST b).skipIf c = (s.skipIf c).setST b := by
  cases c <;> rfl

theorem skipIf_setKey (k : Reg) (d c : Bool) : (s.setKey k d).skipIf c = (s.skipIf c).setKey k d := by
  cases c <;> rfl

theorem setBytes_setST (b : Byte) (a : Nat) (bs : List Byte) :
    (s.setST b).setBytes a bs = (s.setBytes a bs).setST b := by
  induction bs generalizing s a with
  | nil => rfl
  | cons c bs ih => exact ih (s.setByte a c) (a + 1)

theorem setBytes_setKey (k : Reg) (d : Bool) (a : Nat) (bs : List Byte) :
    (s.setKey k d).setBytes a bs = (s.setBytes a bs).setKey k d := by
  induction bs generalizing s a with
  | nil => rfl
  | cons c bs ih => exact ih (s.setByte a c) (a + 1)

/-- A run of bytes read depends on the bytes alone. -/
theorem bytesAt_of_byteAt {s t : State} (h : ∀ a, t.byteAt a = s.byteAt a) (a n : Nat) :
    t.bytesAt a n = s.bytesAt a n := by
  induction n generalizing a with
  | zero => rfl
  | succ n ih => rw [State.bytesAt, State.bytesAt, h, ih]

theorem bytesAt_setST (b : Byte) (a n : Nat) : (s.setST b).bytesAt a n = s.bytesAt a n :=
  bytesAt_of_byteAt (State.setST_byteAt s b) a n

theorem bytesAt_setKey (k : Reg) (d : Bool) (a n : Nat) : (s.setKey k d).bytesAt a n = s.bytesAt a n :=
  bytesAt_of_byteAt (State.setKey_byteAt s k d) a n

theorem effect_setST {i : Instr} (hi : ∀ x, i ≠ .ldSTVx x) (b : Byte) :
    effect i (s.setST b) = (effect i s).setST b := by
  cases i with
  | ldSTVx x => exact absurd rfl (hi x)
  | seImm | sneImm | seReg | sneReg | skp | sknp => exact skipIf_setST s b _
  | ldB | stRegs => exact setBytes_setST s b _ _
  | drw | ldRegs =>
    simp only [effect, bytesAt_setST]
    rfl
  | _ => rfl

theorem effect_setKey {i : Instr} (hi : ∀ x, i ≠ .skp x ∧ i ≠ .sknp x) (k : Reg) (d : Bool) :
    effect i (s.setKey k d) = (effect i s).setKey k d := by
  cases i with
  | skp x => exact absurd rfl (hi x).1
  | sknp x => exact absurd rfl (hi x).2
  | seImm | sneImm | seReg | sneReg => exact skipIf_setKey s k d _
  | ldB | stRegs => exact setBytes_setKey s k d _ _
  | drw | ldRegs =>
    simp only [effect, bytesAt_setKey]
    rfl
  | _ => rfl

theorem stopOf_setST (i : Instr) (b : Byte) : stopOf i (s.setST b) = stopOf i s := by
  cases i <;> rfl

theorem stopOf_setKey (i : Instr) (k : Reg) (d : Bool) : stopOf i (s.setKey k d) = stopOf i s := by
  cases i <;> rfl

end

/-! ## The statements -/

/-- Settles O51: fault entry writes RUN alone. -/
theorem faultsArePrecise : Obligations.FaultsArePrecise := fun _ _ _ _ _ hr h ht => (exec_faulted hr h ht).2

/-- Settles O52: an instruction faults where its precondition fails, with the value recorded there. -/
theorem onlyTheListedFaultsOccur : Obligations.OnlyTheListedFaultsOccur := by
  intro i s t c n hr h ht
  have hs := (exec_faulted hr h ht).1
  cases i with
  | call nnn =>
    obtain ⟨hsp, he⟩ : s.sp = 16 ∧ Stop.raise .stackOverflow s.pc.toNat = .raise c n := by
      simpa [stopOf, ite_eq_iff] using hs
    cases he
    exact .inl ⟨rfl, hsp, rfl, nnn, rfl⟩
  | ret =>
    obtain ⟨hsp, he⟩ : s.sp = 0 ∧ Stop.raise .stackUnderflow 0 = .raise c n := by
      simpa [stopOf, ite_eq_iff] using hs
    cases he
    exact .inr (.inl ⟨rfl, hsp, rfl, rfl⟩)
  | drw x y rows =>
    obtain ⟨⟨hrows, hgt⟩, he⟩ := Option.ite_none_right_eq_some.mp hs
    cases he
    exact .inr (.inr (.inl ⟨rfl, rfl, .inl ⟨x, y, rows, rfl, hrows, hgt⟩⟩))
  | ldB x =>
    obtain ⟨hgt, he⟩ := Option.ite_none_right_eq_some.mp hs
    cases he
    exact .inr (.inr (.inl ⟨rfl, rfl, .inr (.inl ⟨x, rfl, hgt⟩)⟩))
  | stRegs x =>
    obtain ⟨hgt, he⟩ := Option.ite_none_right_eq_some.mp hs
    cases he
    exact .inr (.inr (.inl ⟨rfl, rfl, .inr (.inr ⟨x, .inl rfl, hgt⟩)⟩))
  | ldRegs x =>
    obtain ⟨hgt, he⟩ := Option.ite_none_right_eq_some.mp hs
    cases he
    exact .inr (.inr (.inl ⟨rfl, rfl, .inr (.inr ⟨x, .inr rfl, hgt⟩)⟩))
  | skp x =>
    obtain ⟨hgt, he⟩ := Option.ite_none_right_eq_some.mp hs
    cases he
    exact .inr (.inr (.inr ⟨rfl, x, .inl rfl, hgt, rfl⟩))
  | sknp x =>
    obtain ⟨hgt, he⟩ := Option.ite_none_right_eq_some.mp hs
    cases he
    exact .inr (.inr (.inr ⟨rfl, x, .inr rfl, hgt, rfl⟩))
  | _ => cases hs

/-- Settles O53: the frame of the effect, or of fault entry. -/
theorem stateIsWrittenOnlyAsNamed : Obligations.StateIsWrittenOnlyAsNamed := by
  intro i s t h
  obtain ⟨_, rfl⟩ | ⟨c, n, _, rfl⟩ := exec_next_cases h
  · exact ⟨(effect_onlyChanges s i).mono (List.subset_cons_self ..), (effect_run i s).imp_right .inl⟩
  · exact ⟨(onlyChanges_raise s c n).mono (by simp), .inr (.inr ⟨c, n, rfl⟩)⟩

/-- Settles O54: by the destinations of each instruction; a fault writes no register. -/
theorem registersAreWrittenOnlyAsNamed : Obligations.RegistersAreWrittenOnlyAsNamed := by
  intro i s t _ h
  obtain ⟨_, rfl⟩ | ⟨c, n, _, rfl⟩ := exec_next_cases h
  · refine ⟨fun r hd hf => effect_reg_of_not_named hd hf, fun hf _ => ?_⟩
    obtain ⟨c, e⟩ := effect_flag hf s
    rw [e]
    exact flagByte_eq c
  · exact ⟨fun r _ _ => rfl, fun _ hrun => Run.noConfusion hrun⟩

/-- Settles O55: neither the stop nor the effect of an instruction depends on ST. -/
theorem noInstructionReadsTheSoundTimer : Obligations.NoInstructionReadsTheSoundTimer := fun i s b =>
  ⟨fun _ => rfl, fun hi => exec_commutes (f := (·.setST b)) (stopOf_setST s i b) (effect_setST s hi b) fun _ _ => rfl⟩

/-- Settles O56: no frame of an instruction names the keys, and only SKP and SKNP depend on them. -/
theorem onlyTheKeyTestsReadTheKeys : Obligations.OnlyTheKeyTestsReadTheKeys := by
  refine fun i s => ⟨fun t h => (stateIsWrittenOnlyAsNamed i s t h).1.1.1 .keys ?_, fun hi k d => ?_⟩
  · cases i <;> simp [writes]
  · exact exec_commutes (f := (·.setKey k d)) (stopOf_setKey s i k d) (effect_setKey s hi k d) fun _ _ => rfl

/-- Settles O57: only an illegal SP stops an instruction without a next state. -/
theorem executeIsTotal : Obligations.ExecuteIsTotal := by
  intro i s _ hsp
  rcases h : stopOf i s with _ | ⟨c, n⟩ | f
  · exact ⟨_, exec_of_delivers h⟩
  · exact ⟨_, exec_of_raises h⟩
  · exact absurd (sp_gt_of_halts h) (Nat.not_lt.mpr hsp)

end Sys2Proof.Claim
end

section
/-!
The transitions one by one: what the host orders next, what each event does to the invariant, and that an instruction
executed after a fetch keeps it (70_reset_and_hazards.md R193, 60_exceptions.md R160).
-/

namespace Sys2Proof.Claim

open Sys2Proof.Machine Sys2Proof.Safety

section
variable {s t : State}

/-! ## The transition that the host orders -/

theorem step_of_nil (h : s.schedule = []) : step s = s.engineStep := by
  rw [step, State.nextTransition, h]

theorem step_of_cons {tr : Transition} {more : List Transition} (h : s.schedule = tr :: more) :
    step s = (s.setSchedule more).perform tr := by
  rw [step, State.nextTransition, h]

theorem setSchedule_self (l : List Transition) (h : s.schedule = l) : s.setSchedule l = s := by
  subst h
  rfl

/-- A step performs one transition, a Step when none is ordered (log entry 2). -/
theorem step_eq_perform (s : State) : ∃ tr more, (s.schedule = tr :: more ∨ s.schedule = [] ∧ tr = .step ∧ more = []) ∧
    step s = (s.setSchedule more).perform tr := by
  cases h : s.schedule with
  | nil => exact ⟨.step, [], .inr ⟨rfl, rfl, rfl⟩, by rw [step_of_nil h, setSchedule_self _ h]; rfl⟩
  | cons tr more => exact ⟨tr, more, .inl rfl, step_of_cons h⟩

/-- A Step that answers a next state executes in a running, loaded machine, or its fetch faults. -/
theorem engineStep_next_cases (h : s.engineStep = .next t) :
    s.run = .running ∧ s.boot = .loaded ∧
      ((∃ i, s.pc.toNat ≤ 0xFFE ∧ exec i s.advance = .next t) ∨ t = s.raise .memRange (max s.pc.toNat 0x1000)) := by
  cases hr : s.run with
  | awaitingKey | faulted => simp [State.engineStep, hr] at h
  | running =>
    cases hb : s.boot with
    | afterReset | unloaded => simp [State.engineStep, hr, hb] at h
    | loaded =>
      refine ⟨rfl, rfl, ?_⟩
      by_cases hpc : s.pc.toNat ≤ 0xFFE
      · exact .inl ⟨_, hpc, State.engineStep_ok hr hb hpc ▸ h⟩
      · rw [State.engineStep_fetch_fault hr hb (Nat.not_le.mp hpc)] at h
        exact .inr (Host.Outcome.next.inj h).symm

/-! ## The invariant and the events -/

/-- In a loaded machine nothing is asked of what Reset left. -/
theorem inv_of_loaded (hb : s.boot = .loaded) (memory : Memory.wf s.glyphRom s.mem) (sp : s.sp.toNat ≤ 16)
    (pc : s.pc.toNat ≤ 0x10FE) (returns : ∀ k : Fin 16, (s.stack.get k).toNat ≤ 0x1000) (record : faultRecordTrue s) :
    Inv s :=
  ⟨memory, sp, pc, returns, record, fun h => absurd hb h⟩

/-- In a state that listens no fault has been recorded. -/
theorem faultRecordTrue_of_listens (h : s.run.listens = true) : faultRecordTrue s := by
  unfold faultRecordTrue
  cases hr : s.run with
  | faulted => rw [hr] at h; cases h
  | _ => trivial

/-- The invariant does not speak of the keys, of the count of draws or of the schedule. -/
theorem inv_set_keys_draws_schedule (h : Inv s) (ks : Vector Bool 16) (n : Nat) (l : List Transition) :
    Inv { s with keys := ks, draws := n, schedule := l } := by
  refine ⟨h.memory, h.stackPointer, h.pcBound, h.returnAddresses, h.faultRecord, fun hb => ?_⟩
  obtain ⟨regs, pc, i, sp, stack, timers, screen, memory, run⟩ := h.beforeLoad hb
  exact ⟨regs, pc, i, sp, stack, timers, screen, memory, run⟩

theorem inv_setSchedule (h : Inv s) (l : List Transition) : Inv (s.setSchedule l) :=
  inv_set_keys_draws_schedule h s.keys s.draws l

theorem inv_setDraws (h : Inv s) (n : Nat) : Inv (s.setDraws n) := inv_set_keys_draws_schedule h s.keys n s.schedule

theorem inv_pastReset (h : Inv s) (hl : s.run.listens = true) : Inv s.pastReset := by
  rw [State.pastReset_eq]
  refine ⟨h.memory, h.stackPointer, h.pcBound, h.returnAddresses, faultRecordTrue_of_listens hl, fun hb => ?_⟩
  have hb' : s.boot ≠ .loaded := fun e => hb (by simp [e])
  obtain ⟨regs, pc, i, sp, stack, timers, screen, memory, run⟩ := h.beforeLoad hb'
  exact ⟨regs, pc, i, sp, stack, timers, screen, memory, run⟩

theorem inv_setKey (h : Inv s) (k : Reg) (d : Bool) : Inv (s.setKey k d) :=
  inv_set_keys_draws_schedule h (s.setKey k d).keys s.draws s.schedule

/-- A timer at 0 stays there, so Ticks before the Load change neither (45_timers_random.md R154). -/
theorem inv_countDown (h : Inv s) : Inv ((s.setDT (countDown s.dt)).setST (countDown s.st)) := by
  refine ⟨h.memory, h.stackPointer, h.pcBound, h.returnAddresses, h.faultRecord, fun hb => ?_⟩
  obtain ⟨regs, pc, i, sp, stack, ⟨dt, st⟩, screen, memory, run⟩ := h.beforeLoad hb
  exact ⟨regs, pc, i, sp, stack, ⟨congrArg countDown dt, congrArg countDown st⟩, screen, memory, run⟩

theorem inv_hostTick (h : Inv s) (ht : s.hostTick = .next t) : Inv t := by
  cases ht
  split
  next hl => exact inv_pastReset (inv_countDown h) hl
  next => exact h

theorem inv_hostKeySet (h : Inv s) {k : Reg} {d : Bool} (ht : s.hostKeySet k d = .next t) : Inv t := by
  cases ht
  split
  next hl => exact inv_pastReset (inv_setKey h k d) hl
  next => exact h

/-- A wait begins only after the Load, so the register it ends with is not one that Reset left. -/
theorem loaded_of_awaitingKey (h : Inv s) {x : Reg} (hr : s.run = .awaitingKey x) : s.boot = .loaded := by
  by_contra hb
  obtain e | ⟨_, e⟩ := (h.beforeLoad hb).run <;> rw [hr] at e <;> cases e

theorem inv_hostKeyPress (h : Inv s) {m : Option Reg} (ht : s.hostKeyPress m = .next t) : Inv t := by
  cases ht
  split
  next x k hr =>
    have hb := loaded_of_awaitingKey h hr
    exact inv_pastReset (inv_of_loaded hb h.memory h.stackPointer h.pcBound h.returnAddresses trivial) rfl
  next hr => exact inv_pastReset h (by rw [hr]; rfl)
  next hr => exact inv_pastReset h (by rw [hr]; rfl)
  next => exact h

theorem asReset_resetWith (rom : GlyphRom) : AsReset (State.resetWith rom) := by
  obtain ⟨regs, pc, i, sp, stack, dt, st, _, screen, _⟩ := resetValues_resetWith rom
  exact ⟨regs, pc, i, sp, stack, ⟨dt, st⟩, screen, rfl, .inl rfl⟩

theorem inv_resetWith (rom : GlyphRom) : Inv (State.resetWith rom) := by
  have h := asReset_resetWith rom
  refine ⟨Memory.wf_nil, Nat.zero_le _, Nat.zero_le _, fun k => ?_, trivial, fun _ => h⟩
  rw [h.stack k]
  exact Nat.zero_le _

theorem inv_hostReset (ht : s.hostReset = .next t) : Inv t := by
  cases ht
  exact inv_setSchedule (inv_setDraws (inv_resetWith s.glyphRom) s.draws) s.schedule

/-- A Load has a meaning only in a running machine directly after Reset, and is accepted or turned away by its length
(70_reset_and_hazards.md R192, R193). -/
theorem hostLoad_next_cases {bytes : List Byte} (h : s.hostLoad bytes = .next t) :
    s.run = .running ∧ s.boot = .afterReset ∧
      (3583 < bytes.length ∧ t = s.raise .loadTooLarge bytes.length ∨
        bytes.length ≤ 3583 ∧ t = ((s.setBytes 0x200 bytes).setPc 0x200).setBoot .loaded) := by
  unfold State.hostLoad at h
  split at h
  next hr hb =>
    refine ⟨hr, hb, ?_⟩
    split at h
    next hgt => exact .inl ⟨hgt, (Host.Outcome.next.inj h).symm⟩
    next hle => exact .inr ⟨Nat.not_lt.mp hle, (Host.Outcome.next.inj h).symm⟩
  next => cases h

theorem inv_hostLoad (h : Inv s) {bytes : List Byte} (ht : s.hostLoad bytes = .next t) : Inv t := by
  obtain ⟨hr, hb, ⟨hgt, rfl⟩ | ⟨hle, rfl⟩⟩ := hostLoad_next_cases ht
  · refine ⟨h.memory, h.stackPointer, h.pcBound, h.returnAddresses, ⟨hgt, hb⟩, fun hb' => ?_⟩
    obtain ⟨regs, pc, i, sp, stack, timers, screen, memory, _⟩ := h.beforeLoad hb'
    exact ⟨regs, pc, i, sp, stack, timers, screen, memory, .inr ⟨_, rfl⟩⟩
  · refine inv_of_loaded rfl ?_ (by simpa using h.stackPointer) (show 0x200 ≤ 0x10FE by decide)
      (by simpa using h.returnAddresses) (faultRecordTrue_of_listens (by simp [hr]; rfl))
    exact State.setBytes_wf (by simp only [Config.memTop_eq]; omega) h.memory

/-! ## The invariant and Execute -/

/-- What the invariant leaves of a state at the entry of Execute: `pc` is an advanced fetch address. -/
structure AtEntry (s : State) : Prop where
  memory : Memory.wf s.glyphRom s.mem
  stackPointer : s.sp.toNat ≤ 16
  pcBound : s.pc.toNat ≤ 0x1000
  returnAddresses : ∀ k : Fin 16, (s.stack.get k).toNat ≤ 0x1000
  run : s.run = .running
  boot : s.boot = .loaded

theorem atEntry_advance (h : Inv s) (hr : s.run = .running) (hb : s.boot = .loaded) (hpc : s.pc.toNat ≤ 0xFFE) :
    AtEntry s.advance := by
  refine ⟨h.memory, h.stackPointer, ?_, h.returnAddresses, hr, hb⟩
  rw [State.advance_pc]
  bv_omega

theorem effect_memory_wf {i : Instr} (h : Memory.wf s.glyphRom s.mem) (hs : stopOf i s = none) :
    Memory.wf (effect i s).glyphRom (effect i s).mem := by
  cases i with
  | ldB x =>
    have hi : s.i.toNat + 2 ≤ 0xFFF := by simpa [stopOf] using hs
    exact State.setBytes_wf (by simp only [decimalDigits_length, Config.memTop_eq]; omega) h
  | stRegs x =>
    have hi : s.i.toNat + x.val ≤ 0xFFF := by simpa [stopOf] using hs
    exact State.setBytes_wf (by simp only [State.regBlock_length, Config.memTop_eq]; omega) h
  | seImm | sneImm | seReg | sneReg | skp | sknp => simpa [effect] using h
  | _ => exact h

theorem effect_sp_le {i : Instr} (h : s.sp.toNat ≤ 16) (hs : stopOf i s = none) : (effect i s).sp.toNat ≤ 16 := by
  cases i with
  | ret =>
    have hne : s.sp ≠ 0 := fun e => by simp [stopOf, e] at hs
    simp only [effect, State.setPc_sp, State.setSp_sp]
    bv_omega
  | call nnn =>
    have hne : s.sp ≠ 16 := fun e => by simp [stopOf, e] at hs
    simp only [effect, State.setPc_sp, State.setSp_sp]
    bv_omega
  | drw => exact h
  | _ => simpa [effect] using h

theorem addrOperand_toNat (nnn : Addr12) : (addrOperand nnn).toNat = nnn.toNat := by
  simp [addrOperand]
  omega

/-- The sum does not wrap: it is at most 0xFFF + 0xFF (40_control_flow.md R90). -/
theorem indexedTarget_toNat (s : State) (nnn : Addr12) :
    (s.indexedTarget nnn).toNat = nnn.toNat + (s.reg 0).toNat := by
  have hn := nnn.isLt
  have hb := (s.reg 0).isLt
  rw [State.indexedTarget, BitVec.toNat_add, addrOperand_toNat, zext16, BitVec.toNat_setWidth]
  omega

theorem skipIf_pc_le (s : State) (c : Bool) : (s.skipIf c).pc.toNat ≤ s.pc.toNat + 2 := by
  rw [State.skipIf_pc]
  split
  · rw [BitVec.toNat_add]
    exact Nat.mod_le _ _
  · omega

theorem effect_pc_le (h : AtEntry s) (i : Instr) : (effect i s).pc.toNat ≤ 0x10FE := by
  have hpc := h.pcBound
  cases i with
  | ret => exact (h.returnAddresses _).trans (by decide)
  | jp nnn | call nnn =>
    have hn := nnn.isLt
    simp only [effect, State.setPc_pc, addrOperand_toNat]
    omega
  | jpV0 nnn =>
    have hn := nnn.isLt
    have hb := (s.reg 0).isLt
    simp only [effect, State.setPc_pc, indexedTarget_toNat]
    omega
  | seImm | sneImm | seReg | sneReg | skp | sknp => exact (skipIf_pc_le s _).trans (by omega)
  | ldB | stRegs =>
    simp only [effect, State.setBytes_pc]
    omega
  | _ => exact hpc.trans (by decide)

theorem effect_stack_le (h : AtEntry s) (i : Instr) (k : Fin 16) : ((effect i s).stack.get k).toNat ≤ 0x1000 := by
  cases i with
  | call nnn =>
    change ((s.setEntry _ s.pc).stack.get k).toNat ≤ 0x1000
    rw [State.setEntry_get]
    split
    · exact h.pcBound
    · exact h.returnAddresses k
  | drw => exact h.returnAddresses k
  | _ => simpa [effect] using h.returnAddresses k

/-- A fault record says what happened: the condition the instruction stopped at (60_exceptions.md R160). -/
theorem faultRecordTrue_raise (h : AtEntry s) {i : Instr} {c : Cause} {n : Nat}
    (hs : stopOf i s = some (.raise c n)) : faultRecordTrue (s.raise c n) := by
  have hpc := h.pcBound
  have hi := s.i.isLt
  obtain ⟨rfl, hsp, rfl, _⟩ | ⟨rfl, hsp, rfl, _⟩ | ⟨rfl, rfl, _⟩ | ⟨rfl, x, _, hk, rfl⟩ :=
    onlyTheListedFaultsOccur i s _ c n h.run (exec_of_raises hs) rfl
  · exact ⟨hsp, hpc⟩
  · exact ⟨hsp, rfl⟩
  · exact ⟨Nat.le_max_right .., by omega⟩
  · exact ⟨hk, Nat.le_of_lt_succ (s.reg x).isLt⟩

theorem effect_boot (i : Instr) (s : State) : (effect i s).boot = s.boot := (effect_onlyChanges s i).2.1

/-- An instruction executed from the entry state leaves the invariant, whether it delivers or faults. -/
theorem inv_exec (h : AtEntry s) {i : Instr} (ht : exec i s = .next t) : Inv t := by
  obtain ⟨hs, rfl⟩ | ⟨c, n, hs, rfl⟩ := exec_next_cases ht
  · have hl : (effect i s).run.listens = true := by
      obtain e | ⟨x, _, e⟩ := effect_run i s
      · rw [e, h.run]; rfl
      · rw [e]; rfl
    exact inv_of_loaded ((effect_boot i s).trans h.boot) (effect_memory_wf h.memory hs) (effect_sp_le h.stackPointer hs)
      (effect_pc_le h i) (effect_stack_le h i) (faultRecordTrue_of_listens hl)
  · exact inv_of_loaded h.boot h.memory h.stackPointer (h.pcBound.trans (by decide)) h.returnAddresses
      (faultRecordTrue_raise h hs)

theorem inv_engineStep (h : Inv s) (ht : s.engineStep = .next t) : Inv t := by
  obtain ⟨hr, hb, ⟨i, hpc, he⟩ | rfl⟩ := engineStep_next_cases ht
  · exact inv_exec (atEntry_advance h hr hb hpc) he
  · have hpc := s.pc.isLt
    exact inv_of_loaded hb h.memory h.stackPointer h.pcBound h.returnAddresses ⟨Nat.le_max_right .., by omega⟩

theorem inv_perform (h : Inv s) {tr : Transition} (ht : s.perform tr = .next t) : Inv t := by
  cases tr with
  | reset => exact inv_hostReset ht
  | load bytes => exact inv_hostLoad h ht
  | step => exact inv_engineStep h ht
  | tick => exact inv_hostTick h ht
  | keySet k d => exact inv_hostKeySet h ht
  | keyPress m => exact inv_hostKeyPress h ht

end

/-! ## The statements -/

/-- Settles O48: by the transition that the host orders. -/
theorem everyStepKeepsTheInvariant : Obligations.EveryStepKeepsTheInvariant := by
  intro s t h ht
  obtain ⟨tr, more, _, e⟩ := step_eq_perform s
  exact inv_perform (inv_setSchedule h more) (e ▸ ht)

/-- Settles O49: memory lists nothing and every register is 0. -/
theorem theInvariantHoldsAtReset : Obligations.TheInvariantHoldsAtReset :=
  ⟨inv_resetWith Config.defaultGlyphRom, inv_resetWith⟩

end Sys2Proof.Claim
end

section
/-!
The Step and the host's events, one transition at a time: what each does and leaves alone, and which of them leaves a wait
or a fault (44_keyboard.md section 2, 45_timers_random.md, 60_exceptions.md, 70_reset_and_hazards.md).
-/

namespace Sys2Proof.Claim

open Sys2Proof.Machine

/-! ## Parts that the events share -/

section
variable (s : State)

theorem pastReset_boot : s.pastReset.boot = bootAfterEvent s.boot := by
  unfold State.pastReset
  cases h : s.boot <;> simp [h, bootAfterEvent]

@[simp] theorem pastReset_dt : s.pastReset.dt = s.dt := by simp [State.pastReset_eq]
@[simp] theorem pastReset_st : s.pastReset.st = s.st := by simp [State.pastReset_eq]
@[simp] theorem pastReset_keys : s.pastReset.keys = s.keys := by simp [State.pastReset_eq]
@[simp] theorem pastReset_run : s.pastReset.run = s.run := by simp [State.pastReset_eq]
@[simp] theorem pastReset_reg (r : Reg) : s.pastReset.reg r = s.reg r := by simp [State.pastReset_eq]
@[simp] theorem pastReset_schedule : s.pastReset.schedule = s.schedule := by simp [State.pastReset_eq]

end

/-- An event has an effect unless RUN is Faulted. -/
theorem listens_of_ne_faulted {s : State} (h : ∀ c n, s.run ≠ .faulted c n) : s.run.listens = true := by
  cases hr : s.run with
  | faulted c n => exact absurd hr (h c n)
  | _ => rfl

theorem countDown_toNat (b : Byte) : (countDown b).toNat = b.toNat - 1 := by
  unfold countDown
  split
  next h => simp [h]
  next h => bv_omega

section
variable {s t : State} {c : Cause} {n : Nat}

/-! ## The Step -/

theorem step_of_nil_or_step (h : s.schedule = [] ∨ ∃ more, s.schedule = .step :: more) :
    ∃ more, step s = (s.setSchedule more).engineStep := by
  obtain h | ⟨more, h⟩ := h
  · exact ⟨[], by rw [step_of_nil h, setSchedule_self _ h]⟩
  · exact ⟨more, step_of_cons h⟩

theorem engineStep_of_word {w : Word} (hr : s.run = .running) (hb : s.boot = .loaded) (hpc : s.pc.toNat ≤ 0xFFE)
    (hw : w.toNat = (s.byteAt s.pc.toNat).toNat * 256 + (s.byteAt (s.pc.toNat + 1)).toNat) :
    s.engineStep = exec (decode w) (s.setPc (s.pc + 2)) := by
  rw [State.engineStep_ok hr hb hpc, ← BitVec.eq_of_toNat_eq (hw.trans (wordOfBytes_toNat _ _).symm)]
  rfl

theorem engineStep_beyond_memory (hr : s.run = .running) (hb : s.boot = .loaded) (hpc : 0xFFE < s.pc.toNat) :
    ∃ t, s.engineStep = .next t ∧
      t.run = .faulted .memRange (if 0xFFF < s.pc.toNat then s.pc.toNat else 0x1000) ∧ OnlyChanges [.run] s t := by
  have lowest : max s.pc.toNat 0x1000 = if 0xFFF < s.pc.toNat then s.pc.toNat else 0x1000 := by
    split <;> omega
  exact ⟨_, lowest ▸ State.engineStep_fetch_fault hr hb hpc, rfl, onlyChanges_raise ..⟩

/-! ## The events in Running and in AwaitingKey -/

theorem hostTick_of_listens (h : s.run.listens = true) :
    s.hostTick = .next ((s.setDT (countDown s.dt)).setST (countDown s.st)).pastReset := by
  rw [State.hostTick, if_pos h]

theorem hostKeySet_of_listens (h : s.run.listens = true) (k : Reg) (d : Bool) :
    s.hostKeySet k d = .next (s.setKey k d).pastReset := by
  rw [State.hostKeySet, if_pos h]

theorem hostKeyPress_mapped {x : Reg} (h : s.run = .awaitingKey x) (k : Reg) :
    s.hostKeyPress (some k) = .next ((s.setReg x (keyByte k)).setRun .running).pastReset := by
  simp only [State.hostKeyPress, h]

/-- A KeyPress that ends no wait (44_keyboard.md R143). -/
theorem hostKeyPress_ignored {m : Option Reg} (hl : s.run.listens = true) (h : m = none ∨ ∀ x, s.run ≠ .awaitingKey x) :
    s.hostKeyPress m = .next s.pastReset := by
  cases hr : s.run with
  | running => simp only [State.hostKeyPress, hr]
  | faulted => rw [hr] at hl; cases hl
  | awaitingKey x =>
    obtain rfl | h := h
    · simp only [State.hostKeyPress, hr]
    · exact absurd hr (h x)

theorem hostLoad_accepted {bytes : List Byte} (hr : s.run = .running) (hb : s.boot = .afterReset)
    (hle : bytes.length ≤ 3583) : s.hostLoad bytes = .next (((s.setBytes 0x200 bytes).setPc 0x200).setBoot .loaded) := by
  rw [State.hostLoad, hr, hb]
  exact if_neg (Nat.not_lt.mpr hle)

theorem hostLoad_too_large {bytes : List Byte} (hr : s.run = .running) (hb : s.boot = .afterReset)
    (hgt : 3583 < bytes.length) : s.hostLoad bytes = .next (s.raise .loadTooLarge bytes.length) := by
  rw [State.hostLoad, hr, hb]
  exact if_pos hgt

theorem hostLoad_late (bytes : List Byte) (h : s.boot ≠ .afterReset ∨ s.run ≠ .running) :
    s.hostLoad bytes = .refused .loadNotAfterReset := by
  unfold State.hostLoad
  split
  next hr hb => exact absurd h (by simp [hr, hb])
  next => rfl

/-! ## The events in Faulted (60_exceptions.md R166, R171) -/

section
variable (h : s.run = .faulted c n)
include h

theorem hostTick_of_faulted : s.hostTick = .next s := by
  rw [State.hostTick, if_neg (by rw [h]; simp [Run.listens])]

theorem hostKeySet_of_faulted (k : Reg) (d : Bool) : s.hostKeySet k d = .next s := by
  rw [State.hostKeySet, if_neg (by rw [h]; simp [Run.listens])]

theorem hostKeyPress_of_faulted (m : Option Reg) : s.hostKeyPress m = .next s := by
  simp only [State.hostKeyPress, h]

theorem engineStep_of_faulted : s.engineStep = .fault (.halted c n) := by
  rw [State.engineStep, h]

/-- In Faulted only Reset has an effect. -/
theorem perform_of_faulted {tr : Transition} (ht : s.perform tr = .next t) : tr = .reset ∨ t = s := by
  cases tr with
  | reset => exact .inl rfl
  | load bytes =>
    rw [State.perform, hostLoad_late bytes (.inr (by rw [h]; simp))] at ht
    cases ht
  | step =>
    rw [State.perform, engineStep_of_faulted h] at ht
    cases ht
  | tick =>
    rw [State.perform, hostTick_of_faulted h] at ht
    exact .inr (Host.Outcome.next.inj ht).symm
  | keySet k d =>
    rw [State.perform, hostKeySet_of_faulted h] at ht
    exact .inr (Host.Outcome.next.inj ht).symm
  | keyPress m =>
    rw [State.perform, hostKeyPress_of_faulted h] at ht
    exact .inr (Host.Outcome.next.inj ht).symm

end

/-! ## The transitions in AwaitingKey (44_keyboard.md section 2) -/

theorem engineStep_of_awaitingKey {x : Reg} (h : s.run = .awaitingKey x) : s.engineStep = .fault (.awaitingKey x) := by
  rw [State.engineStep, h]

/-- A wait goes on through Ticks, KeySets and unmapped KeyPresses. -/
theorem perform_of_awaitingKey {x : Reg} {tr : Transition} (h : s.run = .awaitingKey x)
    (ht : s.perform tr = .next t) :
    (t.run = .awaitingKey x ∧ Keeps [.delay, .sound, .keys] s t) ∨ (∃ m, tr = .keyPress (some m)) ∨ tr = .reset := by
  have hl : s.run.listens = true := by rw [h]; rfl
  cases tr with
  | reset => exact .inr (.inr rfl)
  | load bytes =>
    rw [State.perform, hostLoad_late bytes (.inr (by rw [h]; simp))] at ht
    cases ht
  | step =>
    rw [State.perform, engineStep_of_awaitingKey h] at ht
    cases ht
  | tick =>
    rw [State.perform, hostTick_of_listens hl] at ht
    cases ht
    exact .inl ⟨by simpa using h, by apply keeps_of_fields <;> simp [State.pastReset_eq]⟩
  | keySet k d =>
    rw [State.perform, hostKeySet_of_listens hl] at ht
    cases ht
    exact .inl ⟨by simpa using h, by apply keeps_of_fields <;> simp [State.pastReset_eq]⟩
  | keyPress m =>
    cases m with
    | some m => exact .inr (.inl ⟨m, rfl⟩)
    | none =>
      rw [State.perform, hostKeyPress_ignored hl (.inl rfl)] at ht
      cases ht
      exact .inl ⟨by simpa using h, by apply keeps_of_fields <;> simp [State.pastReset_eq]⟩

end

/-! ## The statements about the Step -/

/-- Settles O6: the fetched word is the one the two bytes at `pc` make. -/
theorem stepRunsTheDecodedInstruction : Obligations.StepRunsTheDecodedInstruction := by
  rintro s w _ hr hb hpc hw rfl
  refine ⟨fun h => ?_, fun more h => ?_⟩
  · rw [step_of_nil h, engineStep_of_word hr hb hpc hw]
  · rw [step_of_cons h]
    exact engineStep_of_word (s := s.setSchedule more) hr hb hpc hw

/-- Settles O7: the fetch is range-checked before `pc` advances. -/
theorem fetchBeyondMemoryFaults : Obligations.FetchBeyondMemoryFaults := by
  intro s hr hb hpc
  refine ⟨fun h => ?_, fun more h => ?_⟩
  · rw [step_of_nil h]
    exact engineStep_beyond_memory hr hb hpc
  · rw [step_of_cons h]
    exact engineStep_beyond_memory (s := s.setSchedule more) hr hb hpc

/-- Settles O8: by the run state, then by the boot record. -/
theorem stepThatIsNotEnabledStops : Obligations.StepThatIsNotEnabledStops := by
  intro s h
  obtain ⟨more, e⟩ := step_of_nil_or_step h
  rw [e]
  refine ⟨fun x hr => engineStep_of_awaitingKey hr, fun c n hr => engineStep_of_faulted hr, fun hr hb => ?_⟩
  rw [State.engineStep, State.setSchedule_run, hr, State.setSchedule_boot]
  cases hboot : s.boot with
  | loaded => exact absurd hboot hb
  | _ => rfl

/-- A fetch that answers an instruction fetched below 0x1000. -/
theorem pc_le_of_fetch_ok {s : State} {i : Instr} (h : s.fetch = .ok i) : s.pc.toNat ≤ 0xFFE := by
  by_contra hpc
  rw [State.fetch_error (Nat.not_le.mp hpc)] at h
  cases h

theorem selfJump_iff {s : State} :
    Safety.selfJump s = true ↔ s.run = .running ∧ s.fetch = .ok (.jp (s.pc.setWidth 12)) := by
  unfold Safety.selfJump
  cases s.fetch <;> simp

/-- Settles O58: the jump's target is the address that the fetch advanced from. -/
theorem selfJumpIsIdle : Obligations.SelfJumpIsIdle := by
  intro s hb hs h
  obtain ⟨hr, hf⟩ := selfJump_iff.mp h
  have hpc := pc_le_of_fetch_ok hf
  have target : addrOperand (s.pc.setWidth 12) = s.pc := by
    apply BitVec.eq_of_toNat_eq
    rw [addrOperand_toNat, BitVec.toNat_setWidth]
    omega
  calc step s = s.engineStep := step_of_nil hs
    _ = exec (.jp (s.pc.setWidth 12)) s.advance := by
      simp only [State.engineStep, hr, hb, State.fetchExecute, hf]
    _ = .next (s.setPc (addrOperand (s.pc.setWidth 12))) := rfl
    _ = .next s := by rw [target]; rfl

/-! ## The statements about the events -/

/-- Settles O9: both timers by the one countdown. -/
theorem tickCountsBothTimersDown : Obligations.TickCountsBothTimersDown := by
  intro s more h
  rw [step_of_cons h]
  refine ⟨fun hr => ⟨_, hostTick_of_listens (listens_of_ne_faulted hr), ?_, ?_, ?_, pastReset_boot _, ?_⟩,
    fun c n hr => hostTick_of_faulted hr⟩
  · simp [countDown_toNat]
  · simp [countDown_toNat]
  · apply keeps_of_fields <;> simp [State.pastReset_eq]
  · simp

/-- Settles O10: one key bit is written. -/
theorem keySetWritesOneKeyBit : Obligations.KeySetWritesOneKeyBit := by
  intro s k d more h
  rw [step_of_cons h]
  refine ⟨fun hr => ⟨_, hostKeySet_of_listens (s := s.setSchedule more) (listens_of_ne_faulted hr) k d, ?_,
    fun j hj => ?_, ?_, pastReset_boot _, ?_⟩, fun c n hr => hostKeySet_of_faulted (s := s.setSchedule more) hr k d⟩
  · rw [pastReset_keys, State.setKey_get, if_pos rfl]
  · rw [pastReset_keys, State.setKey_get, if_neg hj, State.setSchedule_keys]
  · apply keeps_of_fields <;> simp [State.pastReset_eq]
  · simp

/-- Settles O11: the key's value fits a byte. -/
theorem mappedKeyPressEndsTheWait : Obligations.MappedKeyPressEndsTheWait := by
  intro s x m more h hr
  rw [step_of_cons h]
  refine ⟨_, hostKeyPress_mapped (s := s.setSchedule more) hr m, ?_, ?_, fun r hx => ?_, ?_, pastReset_boot _, ?_⟩
  · simp [keyByte]
    omega
  · simp
  · simp [hx]
  · apply keeps_of_fields <;> simp [State.pastReset_eq]
  · simp

/-- Settles O12: such a KeyPress moves the boot record at most. -/
theorem otherKeyPressesChangeNothing : Obligations.OtherKeyPressesChangeNothing := by
  intro s m more h hm
  rw [step_of_cons h]
  cases hr : s.run with
  | faulted c n =>
    refine ⟨_, hostKeyPress_of_faulted (s := s.setSchedule more) hr m, by apply keeps_of_fields <;> simp, rfl,
      fun hne => ?_, fun _ _ _ => rfl⟩
    exact absurd rfl (hne c n)
  | _ =>
    have hl : (s.setSchedule more).run.listens = true := by rw [State.setSchedule_run, hr]; rfl
    refine ⟨_, hostKeyPress_ignored hl hm, by apply keeps_of_fields <;> simp [State.pastReset_eq], by simp,
      fun _ => pastReset_boot _, fun c n e => ?_⟩
    cases e

/-- Settles O13: one run of bytes from 0x200. -/
theorem loadPlacesTheProgram : Obligations.LoadPlacesTheProgram := by
  intro s bytes more h hr hb hle
  rw [step_of_cons h]
  refine ⟨_, hostLoad_accepted hr hb hle, rfl, fun j hj => setBytes_byteAt_add _ _ _ hj,
    fun a ha => setBytes_byteAt_outside _ _ _ ha, rfl, ?_, by simp⟩
  apply keeps_of_fields <;> simp

/-- Settles O14: the length is checked before anything is written. -/
theorem loadTooLargeIsRejected : Obligations.LoadTooLargeIsRejected := by
  intro s bytes more h hr hb
  rw [step_of_cons h]
  refine ⟨fun hlt => ⟨_, hostLoad_accepted hr hb (by omega), by simpa using hr, rfl⟩,
    fun hge => ⟨_, hostLoad_too_large hr hb (by omega), rfl, ?_, rfl⟩⟩
  apply keeps_of_fields <;> simp

/-- Settles O15: any other boot record or run state refuses the Load. -/
theorem lateLoadIsRefused : Obligations.LateLoadIsRefused := by
  intro s bytes more h hlate
  rw [step_of_cons h]
  exact hostLoad_late bytes hlate

/-- Settles O59: Reset keeps what it does not build anew. -/
theorem resetReopensTheLoad : Obligations.ResetReopensTheLoad := fun _ _ h =>
  ⟨_, step_reset h, rfl, rfl, rfl, rfl, rfl⟩

/-- Settles O17: for every GLYPH_ROM by O16's lemma; three bytes of the default font are evaluated. -/
theorem resetStateHoldsTheResetValues : Obligations.ResetStateHoldsTheResetValues :=
  ⟨resetValues_resetWith, resetValues_resetWith _, by decide, by decide, by decide⟩

/-! ## The statements about a wait and a fault -/

/-- Settles O45: by the transition that the host orders. -/
theorem onlyAKeyOrResetEndsTheWait : Obligations.OnlyAKeyOrResetEndsTheWait := by
  intro s t x hr ht
  obtain ⟨tr, more, hs, e⟩ := step_eq_perform s
  rw [e] at ht
  obtain hkeep | ⟨m, rfl⟩ | rfl := perform_of_awaitingKey (s := s.setSchedule more) hr ht
  · exact .inl hkeep
  · exact .inr (.inl ⟨m, more, by simpa using hs⟩)
  · exact .inr (.inr ⟨more, by simpa using hs⟩)

/-- Settles O50: by the transition that the host orders. -/
theorem onlyResetLeavesFaulted : Obligations.OnlyResetLeavesFaulted := by
  intro s t c n hr ht
  obtain ⟨tr, more, hs, e⟩ := step_eq_perform s
  rw [e] at ht
  obtain rfl | rfl := perform_of_faulted (s := s.setSchedule more) hr ht
  · exact .inl ⟨more, by simpa using hs⟩
  · exact .inr ⟨hr, by apply keeps_of_fields <;> simp, rfl⟩

end Sys2Proof.Claim
end

section
/-!
The instructions one by one: the word, the effect or the fault, and the frame (40_control_flow.md to 45_timers_random.md).
-/

namespace Sys2Proof.Claim

open Sys2Proof.Machine

/-! ## Words, faults and skips -/

/-- The word of an instruction as a number is all that `IsWord` asks. -/
theorem isWord_of_encode_toNat {n : Nat} {i : Instr} (hi : i.wellFormed = true) (hn : (encode i).toNat = n) :
    IsWord n i :=
  isWord_of_toNat hn (decode_encode hi)

/-- A word of family E, its last byte `kk` given apart (30_encoding.md R68). -/
theorem isWord_familyE {x : Reg} {i : Instr} (kk : Byte) (hi : i.wellFormed = true) (he : encode i = formatXK 0xE x kk) :
    IsWord (0xE000 + kk.toNat + x.val * 256) i := by
  refine isWord_of_encode_toNat hi ?_
  have op : (0xE : Nibble).toNat = 0xE := rfl
  rw [he, formatXK_toNat, op]
  omega

theorem faults_of_raises {i : Instr} {s : State} {c : Cause} {n : Nat} (h : stopOf i s = some (.raise c n)) :
    Faults i s c n :=
  ⟨_, exec_of_raises h, rfl, onlyChanges_raise s c n⟩

theorem skipsWhen_skipIf (s : State) {c : Bool} {p : Prop} [Decidable p] (h : c = true ↔ p) :
    SkipsWhen p s (s.skipIf c) := by
  refine ⟨?_, onlyChanges_skipIf s c⟩
  rw [State.skipIf_pc]
  by_cases hp : p
  · rw [if_pos (h.mpr hp), if_pos hp, BitVec.toNat_add]
    rfl
  · rw [if_neg (mt h.mp hp), if_neg hp, Nat.add_zero, Nat.mod_eq_of_lt s.pc.isLt]

theorem beq_iff_toNat_eq (a b : Byte) : (a == b) = true ↔ a.toNat = b.toNat := by
  rw [beq_iff_eq, BitVec.toNat_inj]

theorem bne_iff_toNat_ne (a b : Byte) : (a != b) = true ↔ a.toNat ≠ b.toNat := by
  rw [bne_iff_ne, ne_eq, ne_eq, BitVec.toNat_inj]

/-! ## Control transfer -/

/-- Settles O18: NOP's effect is the identity. -/
theorem nopChangesNothing : Obligations.NopChangesNothing := by
  refine fun s w _ => ⟨rfl, fun h => ?_⟩
  have hd := decode_eq_nop_iff.mpr h
  exact ⟨hd, by rw [hd]; rfl⟩

/-- Settles O20: one write of `pc`. -/
theorem jpSetsThePc : Obligations.JpSetsThePc := fun s nnn _ =>
  ⟨isWord_of_encode_toNat rfl (formatA_toNat 1 nnn), _, exec_of_delivers rfl, addrOperand_toNat nnn,
    effect_onlyChanges s (.jp nnn)⟩

/-- Settles O25: the sum stays below 65536. -/
theorem indexedJumpAddsV0 : Obligations.IndexedJumpAddsV0 := fun s nnn _ =>
  ⟨isWord_of_encode_toNat rfl (formatA_toNat 0xB nnn), _, exec_of_delivers rfl, indexedTarget_toNat s nnn,
    effect_onlyChanges s (.jpV0 nnn)⟩

section
variable {s : State}

theorem stopOf_ret_of_sp (h0 : s.sp.toNat ≠ 0) (h16 : s.sp.toNat ≤ 16) : stopOf .ret s = none := by
  have hne : s.sp ≠ 0 := fun h => h0 (by simp [h])
  rw [stopOf, if_neg hne, if_neg (Nat.not_lt.mpr h16)]

theorem stopOf_call_of_sp (nnn : Addr12) (h : s.sp.toNat < 16) : stopOf (.call nnn) s = none := by
  have hne : s.sp ≠ 16 := fun h' => by simp [h'] at h
  rw [stopOf, if_neg hne, if_neg (by omega)]

/-- A stack index that is SP's value is the index of the entry at SP (10_state.md R27). -/
theorem ofNat_eq_of_eq_val {n : Nat} {k : Fin 16} (h : n = k.val) : Fin.ofNat 16 n = k := by
  subst h
  exact Fin.ofNat_val_eq_self k

end

/-- Settles O19: the entry below SP is read and none is written. -/
theorem retPopsThePc : Obligations.RetPopsThePc := by
  refine fun s _ => ⟨rfl, fun h => faults_of_raises (by rw [stopOf, if_pos h]), fun k hk => ?_⟩
  have hk' : s.sp.toNat - 1 = k.val := by omega
  refine ⟨_, exec_of_delivers (stopOf_ret_of_sp (by omega) (by omega)), ?_, ?_, fun j => rfl, effect_onlyChanges s .ret⟩
  · simp only [effect, State.setPc_pc, ofNat_eq_of_eq_val hk']
  · simp only [effect, State.setPc_sp, State.setSp_sp]
    bv_omega

/-- CALL writes the entry at SP and no other. -/
theorem effect_call_stack_get (s : State) (nnn : Addr12) (j : Fin 16) :
    (effect (.call nnn) s).stack.get j = if j = Fin.ofNat 16 s.sp.toNat then s.pc else s.stack.get j :=
  State.setEntry_get s _ j s.pc

theorem effect_call_sp {s : State} (nnn : Addr12) (h : s.sp.toNat < 16) :
    (effect (.call nnn) s).sp.toNat = s.sp.toNat + 1 := by
  simp only [effect, State.setPc_sp, State.setSp_sp]
  bv_omega

/-- Settles O21: the entry at SP is written and no other. -/
theorem callPushesThePc : Obligations.CallPushesThePc := by
  refine fun s nnn _ => ⟨isWord_of_encode_toNat rfl (formatA_toNat 2 nnn),
    fun h => faults_of_raises (by rw [stopOf, if_pos h]), fun k hk => ?_⟩
  have hsp : s.sp.toNat < 16 := hk ▸ k.isLt
  refine ⟨_, exec_of_delivers (stopOf_call_of_sp nnn hsp), addrOperand_toNat nnn, hk ▸ effect_call_sp nnn hsp, ?_,
    fun j hj => ?_, effect_onlyChanges s (.call nnn)⟩
  · rw [effect_call_stack_get, ofNat_eq_of_eq_val hk, if_pos rfl]
  · rw [effect_call_stack_get, ofNat_eq_of_eq_val hk, if_neg hj]

/-- Settles O22: the entry that CALL writes at SP is the one that RET reads below SP + 1. -/
theorem callThenRetReturns : Obligations.CallThenRetReturns := by
  intro s nnn hr hsp
  have hsp' := effect_call_sp nnn hsp
  refine ⟨effect (.call nnn) s, effect .ret (effect (.call nnn) s), exec_of_delivers (stopOf_call_of_sp nnn hsp),
    exec_of_delivers (stopOf_ret_of_sp (by omega) (by omega)), ?_, BitVec.add_sub_cancel s.sp 1,
    by apply keeps_of_fields <;> simp [effect], rfl, rfl⟩
  change (effect (.call nnn) s).stack.get (Fin.ofNat 16 ((effect (.call nnn) s).sp.toNat - 1)) = s.pc
  rw [hsp', Nat.add_sub_cancel, effect_call_stack_get, if_pos rfl]

/-- Settles O23: two skips by the one rule. -/
theorem immediateSkips : Obligations.ImmediateSkips := fun s x kk _ =>
  ⟨isWord_of_encode_toNat rfl (formatXK_toNat 3 x kk), isWord_of_encode_toNat rfl (formatXK_toNat 4 x kk),
    ⟨_, exec_of_delivers rfl, skipsWhen_skipIf s (beq_iff_toNat_eq _ _)⟩,
    _, exec_of_delivers rfl, skipsWhen_skipIf s (bne_iff_toNat_ne _ _)⟩

/-- Settles O24: as O23; the nibble plays no part in the effect. -/
theorem registerSkips : Obligations.RegisterSkips := fun s x y n _ =>
  ⟨isWord_of_encode_toNat rfl (formatXY_toNat 5 x y n), isWord_of_encode_toNat rfl (formatXY_toNat 9 x y n),
    ⟨_, exec_of_delivers rfl, skipsWhen_skipIf s (beq_iff_toNat_eq _ _)⟩,
    _, exec_of_delivers rfl, skipsWhen_skipIf s (bne_iff_toNat_ne _ _)⟩

/-! ## The ALU -/

/-- Settles O27: one register write of the sum. -/
theorem addImmWrapsWithoutAFlag : Obligations.AddImmWrapsWithoutAFlag := fun s x kk _ =>
  ⟨isWord_of_encode_toNat rfl (formatXK_toNat 7 x kk), _, exec_of_delivers rfl,
    holdsResult_setReg s x (BitVec.toNat_add ..)⟩

/-- Settles O28: one register write. -/
theorem ldRegCopies : Obligations.LdRegCopies := fun s x y _ =>
  ⟨isWord_family8 0 (by simp [decodeFamily8]), _, exec_of_delivers rfl, holdsResult_setReg s x rfl⟩

/-- Settles O29: one register write each, so VF is in the frame. -/
theorem bitwiseOperationsSetNoFlag : Obligations.BitwiseOperationsSetNoFlag := fun s x y _ =>
  ⟨isWord_family8 1 (by simp [decodeFamily8]), isWord_family8 2 (by simp [decodeFamily8]),
    isWord_family8 3 (by simp [decodeFamily8]),
    ⟨_, exec_of_delivers rfl, holdsResult_setReg s x (BitVec.toNat_or ..)⟩,
    ⟨_, exec_of_delivers rfl, holdsResult_setReg s x (BitVec.toNat_and ..)⟩,
    _, exec_of_delivers rfl, holdsResult_setReg s x (BitVec.toNat_xor ..)⟩

/-- Settles O32: as O31 with the operands exchanged. -/
theorem subnSetsTheStrictFlag : Obligations.SubnSetsTheStrictFlag := fun s x y _ =>
  ⟨isWord_family8 7 (by simp [decodeFamily8]), _, exec_of_delivers rfl,
    holdsResultAndFlag_setResult s x (byte_sub_toNat ..)⟩

theorem lowBit_eq (a : Byte) : lowBit a = decide (a.toNat % 2 = 1) := by
  simp [lowBit, BitVec.getLsbD, Nat.testBit_zero]

theorem highBit_eq (a : Byte) : highBit a = decide (128 ≤ a.toNat) := by
  have := a.isLt
  simp only [highBit, BitVec.getLsbD, Nat.testBit_eq_decide_div_mod_eq]
  exact decide_eq_decide.mpr (by omega)

/-- Settles O33: the bit that leaves the byte is the flag; neither effect reads V[y]. -/
theorem shiftsMoveOneBitIntoTheFlag : Obligations.ShiftsMoveOneBitIntoTheFlag := by
  refine fun s x y _ => ⟨isWord_family8 6 (by simp [decodeFamily8]), isWord_family8 0xE (by simp [decodeFamily8]),
    ⟨_, exec_of_delivers rfl, ?_⟩, _, exec_of_delivers rfl, ?_⟩
  · rw [effect, lowBit_eq]
    exact holdsResultAndFlag_setResult s x (by simp [Nat.shiftRight_eq_div_pow])
  · rw [effect, highBit_eq]
    exact holdsResultAndFlag_setResult s x (by simp [Nat.shiftLeft_eq, Nat.mul_comm])

/-! ## The index register and memory -/

/-- Settles O34: one write of I. -/
theorem ldIWritesTheAddress : Obligations.LdIWritesTheAddress := fun s nnn _ =>
  ⟨isWord_of_encode_toNat rfl (formatA_toNat 0xA nnn), _, exec_of_delivers rfl, addrOperand_toNat nnn,
    effect_onlyChanges s (.ldI nnn)⟩

theorem zext16_toNat (b : Byte) : (zext16 b).toNat = b.toNat := by
  have := b.isLt
  rw [zext16, BitVec.toNat_setWidth]
  omega

/-- Five times a byte fits 16 bits (42_index_memory.md R122). -/
theorem glyphAddr_toNat (b : Byte) : (glyphAddr b).toNat = 5 * b.toNat := by
  have := b.isLt
  have five : (5 : Word).toNat = 5 := rfl
  rw [glyphAddr, BitVec.toNat_mul, zext16_toNat, five]
  omega

/-- Settles O35: the sum wraps, the product does not. -/
theorem indexArithmetic : Obligations.IndexArithmetic := by
  refine fun s x _ => ⟨isWord_familyF 0x1E (by simp [decodeFamilyF]), isWord_familyF 0x29 (by simp [decodeFamilyF]),
    ⟨_, exec_of_delivers rfl, ?_, effect_onlyChanges s (.addI x)⟩,
    _, exec_of_delivers rfl, glyphAddr_toNat _, effect_onlyChanges s (.ldF x)⟩
  simp only [effect, State.setI_i, BitVec.toNat_add, zext16_toNat]

section
variable {s : State} {x : Reg}

theorem stopOf_stRegs_of_le (h : s.i.toNat + x.val ≤ 0xFFF) : stopOf (.stRegs x) s = none :=
  if_neg (Nat.not_lt.mpr h)

theorem stopOf_ldRegs_of_le (h : s.i.toNat + x.val ≤ 0xFFF) : stopOf (.ldRegs x) s = none :=
  if_neg (Nat.not_lt.mpr h)

/-- Of the stored block, the `r`-th address reads V[r]. -/
theorem effect_stRegs_byteAt {r : Reg} (hr : r ≤ x) :
    (effect (.stRegs x) s).byteAt (s.i.toNat + r.val) = s.reg r := by
  have hl : r.val < (s.regBlock x).length := by
    rw [State.regBlock_length]
    exact Nat.lt_succ_of_le hr
  rw [effect, setBytes_byteAt_add _ _ _ hl, State.regBlock_getElem]

theorem bytesAt_getElem (s : State) (a n : Nat) {j : Nat} (h : j < (s.bytesAt a n).length) :
    (s.bytesAt a n)[j] = s.byteAt (a + j) := by
  have hj : j < n := by simpa using h
  have e := s.bytesAt_getElem? a n j
  rw [if_pos hj, List.getElem?_eq_getElem h] at e
  exact Option.some.inj e

end

/-- Settles O37: the range check is made before any byte is stored. -/
theorem stRegsStoresTheBlock : Obligations.StRegsStoresTheBlock := by
  refine fun s x _ => ⟨isWord_familyF 0x55 (by simp [decodeFamilyF]), fun h => faults_of_raises (if_pos h), fun h =>
    ⟨_, exec_of_delivers (stopOf_stRegs_of_le h), fun r hr => effect_stRegs_byteAt hr, fun a ha => ?_,
      effect_onlyChanges s (.stRegs x)⟩⟩
  exact setBytes_byteAt_outside _ _ _ (by rw [State.regBlock_length]; omega)

/-- Settles O38: the range check is made before any register is loaded. -/
theorem ldRegsLoadsTheBlock : Obligations.LdRegsLoadsTheBlock := by
  refine fun s x _ => ⟨isWord_familyF 0x65 (by simp [decodeFamilyF]), fun h => faults_of_raises (if_pos h), fun h =>
    ⟨_, exec_of_delivers (stopOf_ldRegs_of_le h), fun r hr => ?_, fun r hr => ?_, effect_onlyChanges s (.ldRegs x)⟩⟩
  · have hl : r.val < (s.bytesAt s.i.toNat (x.val + 1)).length := by
      rw [State.bytesAt_length]
      exact Nat.lt_succ_of_le hr
    rw [effect, State.loadRegs_reg, dif_pos hl, bytesAt_getElem]
  · exact effect_reg_of_not_named (i := .ldRegs x) (not_le.mpr hr) fun _ => rfl

/-- Settles O39: the fetch reads the two registers that were stored at `pc`. -/
theorem storedWordIsFetchedNext : Obligations.StoredWordIsFetchedNext := by
  intro s x j k w hr hb hs hi hk hjk hpc hw
  refine ⟨_, exec_of_delivers (stopOf_stRegs_of_le hi), ?_⟩
  have hpc' : (effect (.stRegs x) s).pc = s.pc := State.setBytes_pc ..
  have hkx : k.val ≤ x.val := hk
  have hj : j ≤ x := Fin.le_def.mpr (by omega)
  have high : (effect (.stRegs x) s).byteAt s.pc.toNat = s.reg j := by
    rw [hpc, effect_stRegs_byteAt hj]
  have low : (effect (.stRegs x) s).byteAt (s.pc.toNat + 1) = s.reg k := by
    rw [hpc, Nat.add_assoc, ← hjk, effect_stRegs_byteAt hk]
  rw [step_of_nil (by simpa [effect] using hs)]
  refine engineStep_of_word (by simpa [effect] using hr) (by simpa [effect] using hb) ?_ ?_
  · rw [hpc']
    omega
  · rw [hpc', high, low, hw]

/-! ## The keyboard -/

/-- Settles O43: the key number is checked before the key is read. -/
theorem keyTestsSkip : Obligations.KeyTestsSkip := by
  refine fun s x _ => ⟨isWord_familyE 0x9E rfl rfl, isWord_familyE 0xA1 rfl rfl,
    fun h => ⟨faults_of_raises (if_pos h), faults_of_raises (if_pos h)⟩, fun k hk => ?_⟩
  have hle : ¬ (s.reg x).toNat > 15 := by omega
  refine ⟨⟨_, exec_of_delivers (if_neg hle), ?_⟩, _, exec_of_delivers (if_neg hle), ?_⟩
  · rw [effect, ofNat_eq_of_eq_val hk]
    exact skipsWhen_skipIf s Iff.rfl
  · rw [effect, ofNat_eq_of_eq_val hk]
    exact skipsWhen_skipIf s (by rw [Bool.not_eq_true'])

/-- Settles O44: one write of RUN. -/
theorem keyWaitSuspendsTheEngine : Obligations.KeyWaitSuspendsTheEngine := fun s x _ =>
  ⟨isWord_familyF 0x0A (by simp [decodeFamilyF]), _, exec_of_delivers rfl, rfl, effect_onlyChanges s (.ldVxK x)⟩

/-! ## Timers and the random byte -/

/-- Settles O46: one write each. -/
theorem timerTransfers : Obligations.TimerTransfers := fun s x _ =>
  ⟨isWord_familyF 0x07 (by simp [decodeFamilyF]), isWord_familyF 0x15 (by simp [decodeFamilyF]),
    isWord_familyF 0x18 (by simp [decodeFamilyF]), ⟨_, exec_of_delivers rfl, holdsResult_setReg s x rfl⟩,
    ⟨_, exec_of_delivers rfl, rfl, effect_onlyChanges s (.ldDTVx x)⟩,
    _, exec_of_delivers rfl, rfl, effect_onlyChanges s (.ldSTVx x)⟩

/-- Settles O47: the drawn byte is masked, whatever it is. -/
theorem rndMasksAFreeByte : Obligations.RndMasksAFreeByte := by
  intro s x kk _
  have hx : (effect (.rnd x kk) s).reg x = Config.drawByte s.draws &&& kk := by simp [effect]
  refine ⟨isWord_of_encode_toNat rfl (formatXK_toNat 0xC x kk), _, exec_of_delivers rfl, ?_, fun j hj => ?_, rfl,
    fun r hr => effect_reg_of_not_named (i := .rnd x kk) hr fun _ => rfl, effect_onlyChanges s (.rnd x kk)⟩
  · rw [hx, BitVec.toNat_and]
  · rw [hx, BitVec.getLsbD_and, hj, Bool.and_false]

end Sys2Proof.Claim
end

section
/-!
The screen: what a sprite does to the pixels and to VF, once and twice (43_display.md R130 to R134).
-/

namespace Sys2Proof.Claim

open Sys2Proof.Machine

/-! ## Points and pixels -/

/-- Two points that are the same pixel read alike. -/
theorem pixelAt_of_samePixel (fb : Framebuffer) {p q : Nat × Nat} (h : SamePixel p q) :
    pixelAt fb p.1 p.2 = pixelAt fb q.1 q.2 := by
  rw [← pixelAt_mod fb p.1, ← pixelAt_mod fb q.1, h.1, h.2]

section
variable {fb : Framebuffer} {x y : Nat} {bs : List Byte} (h : bs.length ≤ 32)
include h

/-- A sprite collides exactly when a pixel goes from set to unset (43_display.md R133): its points are inverted, so such a
pixel is a point that was set. -/
theorem drawSprite_collision_iff_unset :
    (drawSprite fb x y bs).2 = true ↔
      ∃ px py, px < 64 ∧ py < 32 ∧ pixelAt fb px py = true ∧ pixelAt (drawSprite fb x y bs).1 px py = false := by
  rw [drawSprite_collision fb x y bs h]
  constructor
  · rintro ⟨p, hp, hset⟩
    have same : SamePixel (p.1 % 64, p.2 % 32) p := ⟨Nat.mod_mod _ _, Nat.mod_mod _ _⟩
    have changed := (drawSprite_pixel fb x y bs h _ _).mpr ⟨p, hp, same⟩
    have wasSet := (pixelAt_of_samePixel fb same).trans hset
    exact ⟨_, _, Nat.mod_lt _ (by decide), Nat.mod_lt _ (by decide), wasSet, by simpa [wasSet] using changed⟩
  · rintro ⟨px, py, _, _, hset, hunset⟩
    obtain ⟨p, hp, same⟩ := (drawSprite_pixel fb x y bs h px py).mp (by rw [hset, hunset]; decide)
    exact ⟨p, hp, (pixelAt_of_samePixel fb same).symm.trans hset⟩

/-- A sprite inverts the same pixels whatever stands on the screen, so the second drawing undoes the first. -/
theorem drawSprite_twice (px py : Nat) :
    pixelAt (drawSprite (drawSprite fb x y bs).1 x y bs).1 px py = pixelAt fb px py := by
  have once := drawSprite_pixel fb x y bs h px py
  have again := drawSprite_pixel (drawSprite fb x y bs).1 x y bs h px py
  by_cases hp : ∃ p ∈ spritePoints x y bs, SamePixel (px, py) p
  · rw [Bool.eq_not.mpr (again.mpr hp), Bool.eq_not.mpr (once.mpr hp), Bool.not_not]
  · exact (not_not.mp (mt again.mp hp)).trans (not_not.mp (mt once.mp hp))

end

/-! ## The state after DRW -/

/-- The bytes of the sprite that DRW reads. -/
def spriteOf (s : State) (n : Nibble) : List Byte := s.bytesAt s.i.toNat n.toNat

section
variable (s : State) (x y : Reg) (n : Nibble)

theorem spriteOf_length_le : (spriteOf s n).length ≤ 32 := by
  have := n.isLt
  rw [spriteOf, State.bytesAt_length]
  omega

theorem effect_drw_pixel (px py : Nat) : (effect (.drw x y n) s).pixel px py =
    pixelAt (drawSprite s.fb (s.reg x).toNat (s.reg y).toNat (spriteOf s n)).1 px py := rfl

theorem effect_drw_reg (r : Reg) : (effect (.drw x y n) s).reg r =
    if r = VF then flagByte (drawSprite s.fb (s.reg x).toNat (s.reg y).toNat (spriteOf s n)).2 else s.reg r :=
  draw_reg s x y r _

theorem stopOf_drw_of_le (h : n = 0 ∨ s.i.toNat + n.toNat - 1 ≤ 0xFFF) : stopOf (.drw x y n) s = none :=
  if_neg fun hgt => h.elim hgt.1 (Nat.not_le.mpr hgt.2)

/-- A sprite bit of 1 falls on a pixel of the screen exactly when a point of the sprite is that pixel. -/
theorem lit_iff {px py : Nat} (hx : px < 64) (hy : py < 32) : Lit s x y n.toNat px py ↔
    ∃ p ∈ spritePoints (s.reg x).toNat (s.reg y).toNat (spriteOf s n), SamePixel (px, py) p := by
  constructor
  · rintro ⟨row, col, hr, hc, hbit, rfl, rfl⟩
    have hr' : row < (spriteOf s n).length := by rwa [spriteOf, State.bytesAt_length]
    refine ⟨(_, _), mem_spritePoints.mpr ⟨row, col, hr', hc, ?_, rfl⟩, Nat.mod_mod _ _, Nat.mod_mod _ _⟩
    rwa [spriteBit, show (spriteOf s n)[row] = _ from bytesAt_getElem ..]
  · rintro ⟨_, hp, hsx, hsy⟩
    obtain ⟨row, col, hr, hc, hbit, rfl⟩ := mem_spritePoints.mp hp
    have hr' : row < n.toNat := by rwa [spriteOf, State.bytesAt_length] at hr
    refine ⟨row, col, hr', hc, ?_, (Nat.mod_eq_of_lt hx).symm.trans hsx, (Nat.mod_eq_of_lt hy).symm.trans hsy⟩
    rwa [spriteBit, show (spriteOf s n)[row] = _ from bytesAt_getElem ..] at hbit

theorem effect_drw_pixel_ne_iff {px py : Nat} (hx : px < 64) (hy : py < 32) :
    (effect (.drw x y n) s).pixel px py ≠ s.pixel px py ↔ Lit s x y n.toNat px py := by
  rw [lit_iff s x y n hx hy, effect_drw_pixel]
  exact drawSprite_pixel s.fb _ _ _ (spriteOf_length_le s n) px py

theorem flagByte_toNat_eq_one_iff (c : Bool) : (flagByte c).toNat = 1 ↔ c = true := by
  cases c <;> decide

/-- VF is 1 exactly when some pixel went from set to unset. -/
theorem effect_drw_flag_iff : ((effect (.drw x y n) s).reg VF).toNat = 1 ↔
    ∃ px py, px < 64 ∧ py < 32 ∧ s.pixel px py = true ∧ (effect (.drw x y n) s).pixel px py = false := by
  rw [effect_drw_reg, if_pos rfl, flagByte_toNat_eq_one_iff]
  exact drawSprite_collision_iff_unset (spriteOf_length_le s n)

end

/-! ## The statements -/

/-- Settles O40: the blank screen. -/
theorem clsUnsetsEveryPixel : Obligations.ClsUnsetsEveryPixel := fun s _ =>
  ⟨rfl, _, exec_of_delivers rfl, pixelAt_blankScreen, effect_onlyChanges s .cls⟩

/-- Settles O41: the sprite's points are distinct pixels, each inverted once. -/
theorem drwXorsTheSprite : Obligations.DrwXorsTheSprite := by
  refine fun s x y n _ => ⟨isWord_of_encode_toNat rfl (formatXY_toNat 0xD x y n),
    fun hn hgt => faults_of_raises (if_pos ⟨hn, hgt⟩), fun h =>
    ⟨_, exec_of_delivers (stopOf_drw_of_le s x y n h), fun px py hx hy => effect_drw_pixel_ne_iff s x y n hx hy,
      effect_drw_flag_iff s x y n, ?_, fun r hr => ?_, effect_onlyChanges s (.drw x y n)⟩⟩
  · rw [effect_drw_reg, if_pos rfl, flagByte_toNat]
    split <;> decide
  · rw [effect_drw_reg, if_neg hr]

/-- Settles O42: both draws read one sprite at one place, and the second collides where the first set. -/
theorem drawingTwiceRestoresTheScreen : Obligations.DrawingTwiceRestoresTheScreen := by
  intro s t x y n _ hi ht hx hy
  rw [exec_of_delivers (stopOf_drw_of_le s x y n hi)] at ht
  obtain rfl := Host.Outcome.next.inj ht
  have restored (px py : Nat) :
      (effect (.drw x y n) (effect (.drw x y n) s)).pixel px py = s.pixel px py := by
    have sprite : spriteOf (effect (.drw x y n) s) n = spriteOf s n :=
      bytesAt_of_byteAt (s := s) (t := effect (.drw x y n) s) (fun _ => rfl) _ _
    rw [effect_drw_pixel, hx, hy, sprite]
    exact drawSprite_twice (spriteOf_length_le s n) px py
  refine ⟨_, exec_of_delivers (stopOf_drw_of_le _ x y n hi), restored, (effect_drw_flag_iff _ x y n).trans ?_⟩
  simp only [restored, and_comm]

end Sys2Proof.Claim
end
